-- ==== Sys2Proof/Word.lean ====
section
/-! DEFINITION. The word types of the block (00_scope.md R6, R7, R9). -/

namespace Sys2Proof

/-- A byte of the store, of DIN or of DOUT (R9: "A byte is 8 bits"). -/
abbrev Byte := BitVec 8

/-- The command word CMD, 32 bits, bit 0 the least significant (30_encoding.md R80, R81). -/
abbrev Word := BitVec 32

/-- One index register, 16 bits (10_state.md R26). -/
abbrev Index := BitVec 16

/-- The width in bytes of the push data port DIN and of the pop data register DOUT (R7: 255, the
largest slot size). -/
abbrev dataWidth : Nat := 255

/-- The 255 bytes of DIN or of DOUT; byte `k` is entry `k` (R10). -/
abbrev DataVec := Vector Byte dataWidth

end Sys2Proof
end

