-- ==== Sys2Proof/Syntax.lean ====
section
/-! DEFINITION. The commands of the block, one constructor per row of spec/opcode_table.json
(30_encoding.md R82 to R85, R89). A field has the width R86 gives it, so no ill-sized operand exists. -/

namespace Sys2Proof

/-- The four commands (00_scope.md R3) with the operands their command word carries (R86). PUSH's
payload is not in the word: it is the data port DIN that comes with the request (R80, R84). -/
inductive Instr where
  /-- REGISTER pe, level, slot_count, slot_size (R82). -/
  | register (pe : Bool) (level scount ssize : BitVec 8)
  /-- UNREGISTER (R83). -/
  | unregister
  /-- PUSH lane, len (R84). -/
  | push (lane : BitVec 8) (len : BitVec 16)
  /-- POP (R85). -/
  | pop
  deriving DecidableEq, Repr

end Sys2Proof
end

