-- ==== Sys2Proof/WellFormed.lean ====
section
/-! DEFINITION. Well-formedness. An Instr has no ill-formed term: every value of every operand field
is encodable and legal (30_encoding.md R86, R87), so what can be ill-formed is a line of the textual
syntax of R93, whose operands are unbounded numbers, and a command word (R90; Decode.lean). -/

namespace Sys2Proof

/-- One line of the textual syntax of R93, before it is assembled: operands are numbers as written. -/
inductive AsmLine where
  /-- `REGISTER pe, level, slot_count, slot_size` -/
  | register (pe level scount ssize : Nat)
  /-- `UNREGISTER` -/
  | unregister
  /-- `PUSH lane, len, [b0, b1, ...]`; the byte list may be left out. -/
  | push (lane len : Nat) (bytes : List Nat)
  /-- `POP` -/
  | pop
  /-- `.word 0x...`, for a word the syntax cannot spell -/
  | word (w : Nat)
  deriving DecidableEq, Repr

/-- A line is well formed when every operand fits the field R82 to R84 give it, and a byte list, where
one is written, has LEN bytes of 8 bits (R93). The vectors V43 and V44 leave the list of a PUSH out
altogether; that is allowed (log 12). -/
def AsmLine.wellFormed : AsmLine → Bool
  | .register pe level scount ssize =>
    decide (pe < 2) && decide (level < 256) && decide (scount < 256) && decide (ssize < 256)
  | .unregister => true
  | .push lane len bytes =>
    decide (lane < 256) && decide (len < 65536) && (bytes.isEmpty || bytes.length == len) &&
      bytes.all (fun b => decide (b < 256))
  | .pop => true
  | .word w => decide (w < 2 ^ 32)

/-- Every command is well formed: the widths of its operands are those of its fields (R86), and no
value of a field is reserved (R87; a REGISTER of 0 slots is a legal word that the command answers,
40_lifecycle.md R100). -/
def Instr.wellFormed : Instr → Bool
  | .register _ _ _ _ => true
  | .unregister => true
  | .push _ _ => true
  | .pop => true

end Sys2Proof
end

