-- ==== Sys2Proof/Decode.lean ====
section
/-! DEFINITION. Decoding of command words (30_encoding.md R81 to R92), the encoder, and the assembler
of the textual syntax (R93). -/

namespace Sys2Proof

/-- `CMD[lo + n - 1 : lo]` as a number of `n` bits (R9, R86: read straight from its bits). -/
def bits (w : Word) (lo n : Nat) : BitVec n := w.extractLsb' lo n

/-- One row of the opcode map of R89. -/
structure OpcodeRow where
  mnemonic : String
  pattern : Word
  mask : Word
  deriving DecidableEq, Repr

/-- "A word `w` is the command of a row when `(w & mask) == match`" (R89). -/
def OpcodeRow.matches (r : OpcodeRow) (w : Word) : Bool := w &&& r.mask == r.pattern

/-- The row of REGISTER (R82, R89). -/
def rowRegister : OpcodeRow := ⟨"REGISTER", 0x00000001, 0x000000EF⟩
/-- The row of UNREGISTER (R83, R89). -/
def rowUnregister : OpcodeRow := ⟨"UNREGISTER", 0x00000002, 0xFFFFFFFF⟩
/-- The row of PUSH (R84, R89). -/
def rowPush : OpcodeRow := ⟨"PUSH", 0x00000003, 0x000000FF⟩
/-- The row of POP (R85, R89). -/
def rowPop : OpcodeRow := ⟨"POP", 0x00000004, 0xFFFFFFFF⟩

/-- The opcode map of R89. -/
def opcodeRows : List OpcodeRow := [rowRegister, rowUnregister, rowPush, rowPop]

/-- Why a word is an illegal command (R90). -/
inductive Reject where
  /-- `OP` is `0x0` or `0x5` to `0xF`. -/
  | reservedOpcode (op : BitVec 4)
  /-- `OP` names a command and a reserved bit of its format is set. -/
  | reservedBitSet (op : BitVec 4)
  deriving DecidableEq, Repr

/-- `OP` names a command: `0x1` to `0x4` (R89). -/
def opcodeNamed (op : BitVec 4) : Bool := decide (1 ≤ op.toNat) && decide (op.toNat ≤ 4)

/-- The decoder, total on command words. It reads no state: no mode changes decoding (R92). -/
def decode (w : Word) : Except Reject Instr :=
  if rowRegister.matches w then
    .ok (.register (w.getLsbD 4) (bits w 8 8) (bits w 16 8) (bits w 24 8))
  else if rowUnregister.matches w then .ok .unregister
  else if rowPush.matches w then .ok (.push (bits w 8 8) (bits w 16 16))
  else if rowPop.matches w then .ok .pop
  else if opcodeNamed (bits w 0 4) then .error (.reservedBitSet (bits w 0 4))
  else .error (.reservedOpcode (bits w 0 4))

/-- The command word of an instruction, its fields laid out as R82 to R85 give them, bit 31 first. -/
def encode : Instr → Word
  | .register pe level scount ssize => ssize ++ scount ++ level ++ 0#3 ++ BitVec.ofBool pe ++ 1#4
  | .unregister => 0#28 ++ 2#4
  | .push lane len => len ++ lane ++ 0#4 ++ 3#4
  | .pop => 0#28 ++ 4#4

/-- The instruction the decoder reads from a row's bits, numbered as spec/opcode_table.json numbers
them: bit 0 is the least significant bit of the one 32-bit word (R55, R81, R92). A command is never
longer than 32 bits, so a longer row is refused; bits above `nbits` are 0. -/
def decodeTableWord (nbits w : Nat) : Option Instr :=
  if nbits ≤ 32 then
    match decode (BitVec.ofNat 32 (w % 2 ^ nbits)) with
    | .ok i => some i
    | .error _ => none
  else none

/-- DIN holding `bs` from byte 0 on. Bytes the line does not give are ignored by the block (R88,
R93); the model puts 0 there (log 12). -/
def dinOfBytes (bs : List Nat) : DataVec :=
  ⟨((List.range dataWidth).map fun k => BitVec.ofNat 8 (bs.getD k 0)).toArray, by simp⟩

/-- The assembler of R93: the word a well-formed line spells and the DIN it supplies. A line that is
not well formed has no word. -/
def assemble (l : AsmLine) : Option (Word × DataVec) :=
  if l.wellFormed then
    some <|
      match l with
      | .register pe level scount ssize =>
        (BitVec.ofNat 32 (ssize <<< 24 ||| scount <<< 16 ||| level <<< 8 ||| pe <<< 4 ||| 0x1), dinOfBytes [])
      | .unregister => (0x00000002, dinOfBytes [])
      | .push lane len bytes => (BitVec.ofNat 32 (len <<< 16 ||| lane <<< 8 ||| 0x3), dinOfBytes bytes)
      | .pop => (0x00000004, dinOfBytes [])
      | .word w => (BitVec.ofNat 32 w, dinOfBytes [])
  else none

/-- The line of R93 that spells an instruction; `bytes` is the payload a PUSH supplies. -/
def Instr.toLine (bytes : List Nat) : Instr → AsmLine
  | .register pe level scount ssize => .register pe.toNat level.toNat scount.toNat ssize.toNat
  | .unregister => .unregister
  | .push lane len => .push lane.toNat len.toNat bytes
  | .pop => .pop

end Sys2Proof
end

