-- ==== Sys2Proof/Config.lean ====
section
/-! DEFINITION. The parameters of a model of the block (00_scope.md R7) and its free values.
The parameters are plain data that State carries unchanged, so every statement about a state is a
statement about every value of them (log 1). The free values are constants without a body. -/

namespace Sys2Proof

/-- The empty test of single-lane POP (R7 `P_POP_EMPTY_CHECK`, 42_pop.md R141). -/
inductive PopEmptyCheck where
  | exact       -- `EXACT`: empty when RIDX[0] = WIDX[0]
  | legacyNext  -- `LEGACY_NEXT`: "empty" when (RIDX[0] + 1) mod SLOT_COUNT = WIDX[0]
  deriving DecidableEq, Repr

/-- The status of a priority-mode POP that finds every lane empty (R7 `P_PRIO_EMPTY_STATUS`,
42_pop.md R151). -/
inductive PrioEmptyStatus where
  | noData    -- `NODATA`
  | legacyOk  -- `LEGACY_OK`
  deriving DecidableEq, Repr

/-- The parameters a model of the block takes (R7). -/
structure Params where
  /-- `MAX_LANES`, the number of physical write-index/read-index register pairs. -/
  maxLanes : Nat
  /-- `STORE_BYTES`, the bytes in the physical backing store. -/
  storeBytes : Nat
  /-- `P_POP_EMPTY_CHECK`. -/
  popEmptyCheck : PopEmptyCheck
  /-- `P_PRIO_EMPTY_STATUS`. -/
  prioEmptyStatus : PrioEmptyStatus
  deriving DecidableEq, Repr

/-- The ranges R7 gives the parameters: `MAX_LANES` 1..255, `STORE_BYTES` at least 1. -/
abbrev Params.Legal (p : Params) : Prop :=
  1 ≤ p.maxLanes ∧ p.maxLanes ≤ 255 ∧ 1 ≤ p.storeBytes

/-- The values R8 calls illustrative ("no rule depends on them") with the two defaults of R7.
DESIGN CHOICE (log 1): State.reset is built with them; unsafe for a claim about that one state. -/
def Params.illustrative : Params where
  maxLanes := 8
  storeBytes := 2048
  popEmptyCheck := .exact
  prioEmptyStatus := .noData

/-- Byte `k` of DOUT as power-on reset leaves it at free draw `n` (70_reset_and_hazards.md R201: "a
fresh draw the model assumes nothing of, never 0"). A free value: it has no body, so nothing can be
proved of it (log 2; safe). -/
opaque Config.freeDout : Nat → Nat → Byte

/-- The serializer's choice at free draw `n` between several waiting requesters when the schedule in
State says nothing (20_memory.md R60: the order "is unspecified"). A free value (log 5; safe). -/
opaque Config.arbiter : Nat → Nat

end Sys2Proof
end

