-- ==== Sys2Proof/Machine/State.lean ====
section
/-! DEFINITION. The state of the block (10_state.md R20 to R31, R40), its surroundings (20_memory.md
R58 to R61, R70), and the state after power-on reset (70_reset_and_hazards.md R200). -/

namespace Sys2Proof.Machine

/-- The four statuses (60_exceptions.md R170). Their 2-bit codes are in Flags.lean. -/
inductive Status where
  | ok | invalidParameter | outOfMemory | noData
  deriving DecidableEq, Repr

/-- A request on the command interface: the command word and the push data port (30_encoding.md R80). -/
structure Request where
  cmd : Word
  din : DataVec
  deriving DecidableEq, Repr

/-- A response: the status and, for POP, the copy of DOUT "as it stands at the end of the command's
step" (30_encoding.md R80). -/
structure Response where
  status : Status
  dout : Option DataVec
  deriving DecidableEq, Repr

/-- A requester (20_memory.md R58): the commands it has still to issue, in its own order, the first
being the one it has outstanding (R61), and the responses it has received, the newest first (R70). -/
structure Requester where
  issue : List Request
  received : List Response
  deriving DecidableEq, Repr

/-- One entry of the schedule: what happens next at the block's interface. -/
inductive Event where
  /-- The outstanding command of requester `k` is the next in the serialization order (R60). -/
  | grant (k : Nat)
  /-- The reset input is asserted and released; no command is accepted meanwhile (R200, R202). -/
  | reset
  deriving DecidableEq, Repr

/-- The backing store as the list of its bytes that differ from `Memory.unlisted`, by rising offset. -/
abbrev Memory := List Host.Cell

/-- What an unlisted byte of the store reads as. DESIGN CHOICE (log 3): the spec leaves the store
unspecified after reset and unobservable (R201); REGISTER's zero-fill makes unlisted bytes 0. -/
abbrev Memory.unlisted : Byte := 0

/-- The state of the block and of its interface. The block has no timer, cycle counter, instruction
counter or timeout (60_exceptions.md R186), so no field is one: `draws` counts free values, moves with
no command, and is the model's own. -/
structure State where
  /-- The parameters of R7; no command writes them (log 1). -/
  params : Params
  /-- `ACTIVE` (R20). -/
  active : Bool
  /-- `PRIO_EN` (R21). -/
  prioEn : Bool
  /-- `LANE_COUNT` (R22). -/
  laneCount : BitVec 8
  /-- `SLOT_COUNT` (R23). -/
  slotCount : BitVec 8
  /-- `SLOT_SIZE` (R24). -/
  slotSize : BitVec 8
  /-- `WIDX[0..MAX_LANES)` (R26). -/
  widx : List Index
  /-- `RIDX[0..MAX_LANES)` (R26). -/
  ridx : List Index
  /-- `STORE[0..STORE_BYTES)` (R29). -/
  store : Memory
  /-- `DOUT[0..255)` (R30). -/
  dout : DataVec
  /-- The push data port DIN of the command being executed (R80); only PUSH reads it. -/
  din : DataVec
  /-- The response to the last command, with `STATUS` (R31); `none` before the first (log 7). -/
  response : Option Response
  /-- The requesters (R58). -/
  requesters : List Requester
  /-- The serialization order and the reset input, as far as they are fixed (R60, R200; log 5). -/
  schedule : List Event
  /-- The model's own: how many free values have been drawn (log 2). -/
  draws : Nat
  deriving DecidableEq, Repr

/-- Why a step can stop. The block itself never stops (60_exceptions.md R175, R179): each of these
needs a state that breaks the invariant of R36 and R37, which no run reaches (log 11). -/
inductive Fault where
  /-- `mod SLOT_COUNT` with `SLOT_COUNT = 0`, which R9 leaves undefined. Raised by PUSH and POP. Safe. -/
  | indexModulusZero
  /-- An index register `l >= MAX_LANES`, which does not exist (R26). Raised by PUSH and POP. Safe. -/
  | noSuchLane
  /-- A store offset outside `[0, STORE_BYTES)` (R50). Raised by PUSH and POP. Safe. -/
  | storeOutOfRange
  deriving DecidableEq, Repr

/-- Why an instruction is refused. No arm of exec uses it: every command has its meaning. -/
inductive Refusal where
  /-- The instruction has no meaning yet. Raised by exec's arms only. Safe. -/
  | notModelled (mnemonic : String)
  deriving DecidableEq, Repr

/-- The outcome of a command or of a step. -/
abbrev Outcome := Host.Outcome State Fault Refusal

/-- DOUT as free draw `n` leaves it (R201; log 2). -/
def freeDoutVec (n : Nat) : DataVec :=
  ⟨((List.range dataWidth).map (Config.freeDout n)).toArray, by simp⟩

/-- The state after power-on reset (R40, R200) of a block with parameters `p` in surroundings
`rs` and `sched`, DOUT being free draw `n`. -/
def State.resetWith (p : Params) (rs : List Requester) (sched : List Event) (n : Nat) : State where
  params := p
  active := false
  prioEn := false
  laneCount := 0
  slotCount := 0
  slotSize := 0
  widx := List.replicate p.maxLanes 0
  ridx := List.replicate p.maxLanes 0
  store := []
  dout := freeDoutVec n
  din := Vector.replicate dataWidth 0
  response := none
  requesters := rs
  schedule := sched
  draws := n + 1

/-- The block right after power-on reset (R200) with no requester, and the parameters of R8 (log 1). -/
def State.reset : State := State.resetWith Params.illustrative [] [] 0

end Sys2Proof.Machine
end

