-- ==== Sys2Proof/Machine/Ops.lean ====
section
/-! DEFINITION. The named operations over the store, the registers and the response port
(00_scope.md R10; 20_memory.md R50 to R57; 30_encoding.md R80; 60_exceptions.md R175). -/

namespace Sys2Proof.Machine

/-! ### The store as a list of cells -/

/-- The canonical form: offsets strictly rising, no byte listed that reads as an unlisted one. -/
abbrev Memory.wf (m : Memory) : Prop :=
  m.Pairwise (fun c d => c.1 < d.1) ∧ ∀ c ∈ m, c.2 ≠ Memory.unlisted

/-- The byte at offset `a`. -/
def Memory.read : Memory → Nat → Byte
  | [], _ => Memory.unlisted
  | (b, u) :: rest, a => if a = b then u else Memory.read rest a

/-- The store with the byte at offset `a` written; keeps the canonical form. -/
def Memory.write : Memory → Nat → Byte → Memory
  | [], a, v => if v = Memory.unlisted then [] else [(a, v)]
  | (b, u) :: rest, a, v =>
    if a < b then
      if v = Memory.unlisted then (b, u) :: rest else (a, v) :: (b, u) :: rest
    else if a = b then
      if v = Memory.unlisted then rest else (a, v) :: rest
    else (b, u) :: Memory.write rest a v

/-- The bytes at offsets `a, a + 1, ..., a + n - 1`, in increasing offset order (R10 `MemRead`). -/
def Memory.readBytes (m : Memory) (a n : Nat) : List Byte :=
  (List.range n).map fun k => m.read (a + k)

/-- The store with the bytes `bs` written from offset `a` on (R10 `MemWrite`). -/
def Memory.writeBytes : Memory → Nat → List Byte → Memory
  | m, _, [] => m
  | m, a, b :: bs => Memory.writeBytes (m.write a b) (a + 1) bs

/-- The store with zeros written to offsets `[a, a + n)`: what writing them byte by byte leaves,
computed at once (obligation ZeroFillIsByteWrites). -/
def Memory.zeroFill (m : Memory) (a n : Nat) : Memory :=
  m.filter fun c => decide (c.1 < a) || decide (a + n ≤ c.1)

/-! ### Register updates -/

/-- `WIDX[l] <- v` (R10). -/
def State.setWidx (s : State) (l v : Nat) : State := { s with widx := s.widx.set l (BitVec.ofNat 16 v) }

/-- `RIDX[l] <- v` (R10). -/
def State.setRidx (s : State) (l v : Nat) : State := { s with ridx := s.ridx.set l (BitVec.ofNat 16 v) }

/-- The store replaced. -/
def State.setStore (s : State) (m : Memory) : State := { s with store := m }

/-- DOUT replaced. -/
def State.setDout (s : State) (d : DataVec) : State := { s with dout := d }

/-- DIN as the request presents it (R80). -/
def State.setDin (s : State) (d : DataVec) : State := { s with din := d }

/-- The response port (R31: "each command's status replaces the last"). -/
def State.setResponse (s : State) (r : Response) : State := { s with response := some r }

/-- The requesters replaced. -/
def State.setRequesters (s : State) (rs : List Requester) : State := { s with requesters := rs }

/-- The schedule replaced. -/
def State.setSchedule (s : State) (es : List Event) : State := { s with schedule := es }

/-- One more free value drawn. -/
def State.draw (s : State) : State := { s with draws := s.draws + 1 }

/-- The five configuration registers written together (R25) and every index register cleared
(R27): what REGISTER and UNREGISTER do before they touch the store (R100, R110). -/
def State.configure (s : State) (act prio : Bool) (lc sc ss : BitVec 8) : State :=
  { s with
    active := act, prioEn := prio, laneCount := lc, slotCount := sc, slotSize := ss
    widx := List.replicate s.params.maxLanes 0
    ridx := List.replicate s.params.maxLanes 0 }

/-! ### The store inside the state -/

/-- `MemRead(a, n)` (R10): `none` when an offset lies outside `[0, STORE_BYTES)` (R50). -/
def State.memRead (s : State) (a n : Nat) : Option (List Byte) :=
  if a + n ≤ s.params.storeBytes then some (s.store.readBytes a n) else none

/-- `MemWrite(a, n, v)` (R10): `none` when an offset lies outside `[0, STORE_BYTES)` (R50). -/
def State.memWrite (s : State) (a : Nat) (bs : List Byte) : Option State :=
  if a + bs.length ≤ s.params.storeBytes then some (s.setStore (s.store.writeBytes a bs)) else none

/-- `MemWrite(0, n, zeros)` (R100, R110). -/
def State.zeroStore (s : State) (n : Nat) : State := s.setStore (s.store.zeroFill 0 n)

/-! ### The response -/

/-- The end of a command whose response carries no data: `return S` after its writes, and `raise S()`
on the unchanged state (R10). This is the block's whole "exception": it transfers no control,
saves nothing and changes no mode (60_exceptions.md R175, R176, R179, R180). It is given in the
command's one step: there is no wait, cancellation or timeout (R186). -/
def answer (st : Status) (s : State) : Outcome := .next (s.setResponse ⟨st, none⟩)

/-- The same for POP, whose response carries a copy of DOUT as it stands at the end of the command's
step, whatever the status (30_encoding.md R80; 70_reset_and_hazards.md R201). -/
def answerWithDout (st : Status) (s : State) : Outcome := .next (s.setResponse ⟨st, some s.dout⟩)

/-- The answer to an illegal command: InvalidParameter, no state written (30_encoding.md R90). Its
response carries no DOUT, since it is no POP (DEDUCED, log 8). -/
def illegalCommand (s : State) : Outcome := answer .invalidParameter s

end Sys2Proof.Machine
end

