-- ==== Sys2Proof/Machine/Operands.lean ====
section
/-! DEFINITION. What a command's operands select: the lane count a REGISTER asks for, the region of
the store, the lane a PUSH goes to, the address of a slot, the payload bytes, and the bytes a POP
lays over DOUT (20_memory.md R51, R57; 30_encoding.md R86 to R88; 40_lifecycle.md R100). -/

namespace Sys2Proof.Machine

/-- `lc = (PE == 1) ? LEVEL : 1` (R100; R87: LEVEL is ignored when PE = 0). -/
def requestedLanes (pe : Bool) (level : BitVec 8) : BitVec 8 := if pe then level else 1

/-- The bytes of the configured region, computed exactly (R100, R105). -/
def regionSize (lc sc ss : BitVec 8) : Nat := lc.toNat * sc.toNat * ss.toNat

/-- The configured region of a state is `[0, LANE_COUNT * SLOT_COUNT * SLOT_SIZE)` (R29). -/
def State.region (s : State) : Nat := regionSize s.laneCount s.slotCount s.slotSize

/-- `SlotAddr(l, i) = (l * SLOT_COUNT + i) * SLOT_SIZE` (R51). -/
def State.slotAddr (s : State) (l i : Nat) : Nat := (l * s.slotCount.toNat + i) * s.slotSize.toNat

/-- The lane PUSH goes to: LANE, when it is in range, in priority mode; lane 0, LANE being ignored, in
single-lane mode (R121, R87). `none` is the lane test failing. -/
def State.selectLane (s : State) (lane : BitVec 8) : Option Nat :=
  if s.prioEn then
    if s.laneCount.toNat ≤ lane.toNat then none else some lane.toNat
  else some 0

/-- The payload `DIN[0..LEN)` (R80, R84, R88). -/
def State.payload (s : State) (len : BitVec 16) : List Byte := s.din.toList.take len.toNat

/-- DOUT with `bs` written to its first bytes and the others unchanged (R30, R141). -/
def overlay (bs : List Byte) (d : DataVec) : DataVec :=
  ⟨(bs.take dataWidth ++ d.toList.drop bs.length).toArray, by simp; omega⟩

end Sys2Proof.Machine
end

