-- ==== Sys2Proof/Machine/Flags.lean ====
section
/-! DEFINITION. The block has no flag register: the conditions of a lane are functions of its index
registers (10_state.md R32 to R35), computed when a command reads them. Here they are, with the index
arithmetic, the single-lane empty test (42_pop.md R141) and the codes of the statuses (R170). -/

namespace Sys2Proof.Machine

/-- The 2-bit code of a status (60_exceptions.md R170). -/
def Status.code : Status → BitVec 2
  | .ok => 0
  | .invalidParameter => 1
  | .outOfMemory => 2
  | .noData => 3

/-- The value of `WIDX[l]` (0 for a register that does not exist). -/
def State.W (s : State) (l : Nat) : Nat := (s.widx.getD l 0).toNat

/-- The value of `RIDX[l]` (0 for a register that does not exist). -/
def State.R (s : State) (l : Nat) : Nat := (s.ridx.getD l 0).toNat

/-- `(i + 1) mod SLOT_COUNT`; `none` for the modulus 0, where R9 defines no remainder. -/
def State.nextIndex (s : State) (i : Nat) : Option Nat :=
  if s.slotCount = 0 then none else some ((i + 1) % s.slotCount.toNat)

/-- "Lane `l` is empty when `WIDX[l] == RIDX[l]`" (R32). -/
def State.laneEmpty (s : State) (l : Nat) : Bool := s.W l == s.R l

/-- The occupancy of lane `l` (R33). -/
def State.occupancy (s : State) (l : Nat) : Nat := (s.W l + s.slotCount.toNat - s.R l) % s.slotCount.toNat

/-- "Lane `l` is full when `(WIDX[l] + 1) mod SLOT_COUNT == RIDX[l]`" (R34). -/
def State.laneFull (s : State) (l : Nat) : Bool := (s.W l + 1) % s.slotCount.toNat == s.R l

/-- The empty test of single-lane POP on read index `r`, write index `w` and next index `nx` (R141). -/
def singleEmptyTest (c : PopEmptyCheck) (r w nx : Nat) : Bool :=
  match c with
  | .exact => r == w
  | .legacyNext => nx == w

end Sys2Proof.Machine
end

