-- ==== Sys2Proof/Machine/Lifecycle.lean ====
section
/-! DEFINITION. The lifecycle commands REGISTER and UNREGISTER (40_lifecycle.md). -/

namespace Sys2Proof.Machine

/-- REGISTER (R100): the checks in the order written, first failure wins, then the configuration, the
cleared indices and the zero-filled region. -/
def execRegister (pe : Bool) (level scount ssize : BitVec 8) (s : State) : Outcome :=
  if s.active then answer .invalidParameter s
  else if pe && level == 0 then answer .invalidParameter s
  else if scount == 0 || ssize == 0 then answer .invalidParameter s
  else if s.params.maxLanes < (requestedLanes pe level).toNat then answer .outOfMemory s
  else if s.params.storeBytes < regionSize (requestedLanes pe level) scount ssize then answer .outOfMemory s
  else
    answer .ok
      ((s.configure true pe (requestedLanes pe level) scount ssize).zeroStore
        (regionSize (requestedLanes pe level) scount ssize))

/-- UNREGISTER (R110): the zero configuration from either lifecycle state. -/
def execUnregister (s : State) : Outcome :=
  answer .ok ((s.configure false false 0 0 0).zeroStore s.params.storeBytes)

end Sys2Proof.Machine
end

