-- ==== Sys2Proof/Machine/Pop.lean ====
section
/-! DEFINITION. POP and the priority scanner (42_pop.md). -/

namespace Sys2Proof.Machine

/-- Serve slot `r` of lane `l`: copy its SLOT_SIZE bytes to DOUT, advance `RIDX[l]`, answer Ok (the
common end of R141 and R151). -/
def serveSlot (l r : Nat) (s : State) : Outcome :=
  match s.nextIndex r with
  | none => .fault .indexModulusZero
  | some nx =>
    match s.memRead (s.slotAddr l r) s.slotSize.toNat with
    | none => .fault .storeOutOfRange
    | some bs => answerWithDout .ok ((s.setDout (overlay bs s.dout)).setRidx l nx)

/-- POP in single-lane mode (R141). -/
def popSingle (s : State) : Outcome :=
  match s.widx[0]?, s.ridx[0]? with
  | some w, some r =>
    match s.nextIndex r.toNat with
    | none => .fault .indexModulusZero
    | some nx =>
      if singleEmptyTest s.params.popEmptyCheck r.toNat w.toNat nx then answerWithDout .noData s
      else serveSlot 0 r.toNat s
  | _, _ => .fault .noSuchLane

/-- The priority scanner (R150): the first of the `n` lanes `l, l + 1, ...` whose indices differ. -/
def scanLanes (s : State) : Nat → Nat → Except Fault (Option Nat)
  | 0, _ => .ok none
  | n + 1, l =>
    match s.widx[l]?, s.ridx[l]? with
    | some w, some r => if r ≠ w then .ok (some l) else scanLanes s n (l + 1)
    | _, _ => .error .noSuchLane

/-- POP in priority mode (R151). -/
def popPriority (s : State) : Outcome :=
  match scanLanes s s.laneCount.toNat 0 with
  | .error f => .fault f
  | .ok (some l) => serveSlot l (s.R l) s
  | .ok none =>
    match s.params.prioEmptyStatus with
    | .noData => answerWithDout .noData s
    | .legacyOk => answerWithDout .ok s

/-- POP (R140). A lane with nothing to serve is answered in this step and never waited out
(60_exceptions.md R186). -/
def execPop (s : State) : Outcome :=
  if s.active then
    if s.prioEn then popPriority s else popSingle s
  else answerWithDout .invalidParameter s

end Sys2Proof.Machine
end

