-- ==== Sys2Proof/Machine/Push.lean ====
section
/-! DEFINITION. PUSH (41_push.md). -/

namespace Sys2Proof.Machine

/-- The full test, the copy and the index update of PUSH on lane `l` (R121), `len` bytes long. A full
lane is answered OutOfMemory in this step and never waited out (60_exceptions.md R186). -/
def pushLane (l : Nat) (len : BitVec 16) (s : State) : Outcome :=
  match s.widx[l]?, s.ridx[l]? with
  | some w, some r =>
    match s.nextIndex w.toNat with
    | none => .fault .indexModulusZero
    | some nx =>
      if nx = r.toNat then answer .outOfMemory s
      else
        match s.memWrite (s.slotAddr l w.toNat) (s.payload len) with
        | none => .fault .storeOutOfRange
        | some s1 => answer .ok (s1.setWidx l nx)
  | _, _ => .fault .noSuchLane

/-- PUSH (R121): "Preconditions, checked in order, first failure wins". -/
def execPush (lane : BitVec 8) (len : BitVec 16) (s : State) : Outcome :=
  if s.active then
    if s.slotSize.toNat < len.toNat then answer .invalidParameter s
    else
      match s.selectLane lane with
      | none => answer .invalidParameter s
      | some l => pushLane l len s
  else answer .invalidParameter s

end Sys2Proof.Machine
end

