-- ==== Sys2Proof/Machine/Dispatch.lean ====
section
/-! DEFINITION. One arm per command of spec/opcode_table.json. -/

namespace Sys2Proof.Machine

def exec (i : Instr) (s : State) : Host.Outcome State Fault Refusal :=
  match i with
  | .register pe level scount ssize => Sys2Proof.Machine.execRegister pe level scount ssize s
  | .unregister => Sys2Proof.Machine.execUnregister s
  | .push lane len => Sys2Proof.Machine.execPush lane len s
  | .pop => Sys2Proof.Machine.execPop s

end Sys2Proof.Machine
end

