-- ==== Sys2Proof/Machine/Port.lean ====
section
/-! DEFINITION. The command interface and the serializer (20_memory.md R58 to R62, R70; 30_encoding.md
R80, R90, R91; 70_reset_and_hazards.md R200, R202): which command is next, how its request is taken,
how its response reaches the requester, and the reset input. -/

namespace Sys2Proof.Machine

/-- What the next step does. -/
inductive Action where
  /-- No command arrives: the block holds its state (R58, R190). -/
  | idle
  /-- The reset input is pulsed (R200, R202). -/
  | reset
  /-- The outstanding command of requester `k` is executed (R60). -/
  | serve (k : Nat)
  deriving DecidableEq, Repr

/-- The command requester `k` has outstanding (R61): the first it has still to issue. -/
def State.outstanding (s : State) (k : Nat) : Option Request := s.requesters[k]?.bind fun r => r.issue.head?

/-- The requesters that have a command outstanding. -/
def State.waiting (s : State) : List Nat :=
  (List.range s.requesters.length).filter fun k => (s.outstanding k).isSome

/-- The serializer (R60, R61): the schedule says what is next; when it is used up and several
requesters wait, the choice is a free value (log 5). A grant to a requester that has nothing
outstanding passes without a command (log 6). -/
def arbitrate (s : State) : Action × State :=
  match s.schedule with
  | .reset :: es => (.reset, s.setSchedule es)
  | .grant k :: es => (if (s.outstanding k).isSome then .serve k else .idle, s.setSchedule es)
  | [] =>
    match s.waiting with
    | [] => (.idle, s)
    | [k] => (.serve k, s)
    | k :: ks => (.serve ((k :: ks).getD (Config.arbiter s.draws % (ks.length + 1)) k), s.draw)

/-- Power-on reset (R200, R202): the state of R40 with DOUT a fresh draw (R201). The parameters are
the block's; what the requesters hold and the rest of the schedule lie outside it (log 4). -/
def powerOnReset (s : State) : State := State.resetWith s.params s.requesters s.schedule s.draws

/-- The requesters once `k`'s outstanding request has been taken. -/
def takeIssued (rs : List Requester) (k : Nat) : List Requester :=
  rs.modify k fun r => { r with issue := r.issue.tail }

/-- The request is taken: DIN is sampled, and the requester's next command is its next outstanding
one once it has its status (R61, R80). -/
def acceptRequest (k : Nat) (q : Request) (s : State) : State :=
  (s.setRequesters (takeIssued s.requesters k)).setDin q.din

/-- Decoding comes first (R91); a legal word is executed, an illegal one answered (R90). -/
def runCommand (w : Word) (s : State) : Outcome :=
  match decode w with
  | .error _ => illegalCommand s
  | .ok i => exec i s

/-- The response reaches requester `k`, which keeps its own copy (R80). -/
def deliver (k : Nat) (s : State) : State :=
  match s.response with
  | none => s
  | some resp => s.setRequesters (s.requesters.modify k fun r => { r with received := resp :: r.received })

/-- Deliver the response of a command that ended; a stop passes through. -/
def deliverOutcome (k : Nat) : Outcome → Outcome
  | .next s => .next (deliver k s)
  | .fault f => .fault f
  | .refused r => .refused r

/-- One command of requester `k`, from request to response, as one indivisible step (R60, R80): it is
immediate and non-blocking, and leaves nothing pending (60_exceptions.md R186). -/
def serve (k : Nat) (s : State) : Outcome :=
  match s.outstanding k with
  | none => .next s
  | some q => deliverOutcome k (runCommand q.cmd (acceptRequest k q s))

/-- A further requester joins with the one request `q`, and is granted next. -/
def issueNext (q : Request) (s : State) : State :=
  (s.setRequesters (s.requesters ++ [⟨[q], []⟩])).setSchedule (.grant s.requesters.length :: s.schedule)

end Sys2Proof.Machine
end

