-- ==== Sys2Proof/Machine/Step.lean ====
section
/-! DEFINITION. One step of the block: one command, one pulse of the reset input, or nothing. -/

namespace Sys2Proof.Machine

/-- One step (20_memory.md R60, R70): what the serializer chooses. -/
def step (s : State) : Host.Outcome State Fault Refusal :=
  match arbitrate s with
  | (.idle, s1) => .next s1
  | (.reset, s1) => .next (powerOnReset s1)
  | (.serve k, s1) => serve k s1

/-- `s` with the command word `w` placed so that the very next step runs it: the block fetches
nothing (R67), so a further requester issues it and is granted next (log 10). DIN is what `s` has
on the port. -/
def State.withFetchWord (s : State) (nbits w : Nat) : State :=
  issueNext ⟨BitVec.ofNat 32 (w % 2 ^ nbits), s.din⟩ s

end Sys2Proof.Machine
end

