-- ==== Sys2Proof/Safety.lean ====
section
/-! DEFINITION. What claims speak of: the invariant of R36 and R37, the items a lane holds (R33), the
block as seen without its surroundings, and safe runs (20_memory.md R70). -/

namespace Sys2Proof.Machine

/-- The index register files have MAX_LANES entries each (R26). -/
abbrev State.FilesSized (s : State) : Prop :=
  s.widx.length = s.params.maxLanes ∧ s.ridx.length = s.params.maxLanes

/-- The store is canonical and has no byte at or beyond STORE_BYTES (R29, R50). -/
abbrev State.StoreSized (s : State) : Prop :=
  s.store.wf ∧ ∀ c ∈ s.store, c.1 < s.params.storeBytes

/-- The configuration and the indices while Active (R36). -/
abbrev State.ActiveLegal (s : State) : Prop :=
  (s.prioEn = false → s.laneCount = 1) ∧
  1 ≤ s.laneCount.toNat ∧ s.laneCount.toNat ≤ s.params.maxLanes ∧
  1 ≤ s.slotCount.toNat ∧ 1 ≤ s.slotSize.toNat ∧ s.region ≤ s.params.storeBytes ∧
  (∀ l < s.laneCount.toNat, s.W l < s.slotCount.toNat ∧ s.R l < s.slotCount.toNat) ∧
  ∀ l < s.params.maxLanes, s.laneCount.toNat ≤ l → s.W l = 0 ∧ s.R l = 0

/-- The configuration and the indices while Unregistered (R37). -/
abbrev State.UnregisteredZero (s : State) : Prop :=
  s.prioEn = false ∧ s.laneCount = 0 ∧ s.slotCount = 0 ∧ s.slotSize = 0 ∧
  ∀ l < s.params.maxLanes, s.W l = 0 ∧ s.R l = 0

/-- The invariant of R36 and R37, with the sizes of the index files and of the store. -/
structure State.Inv (s : State) : Prop where
  params : s.params.Legal
  files : s.FilesSized
  store : s.StoreSized
  active : s.active = true → s.ActiveLegal
  unregistered : s.active = false → s.UnregisteredZero

/-- The SLOT_SIZE bytes of slot `i` of lane `l` (R51). -/
def State.slotBytes (s : State) (l i : Nat) : List Byte :=
  s.store.readBytes (s.slotAddr l i) s.slotSize.toNat

/-- The unread items of lane `l`, the oldest first (R33). -/
def State.laneItems (s : State) (l : Nat) : List (List Byte) :=
  (List.range (s.occupancy l)).map fun j => s.slotBytes l ((s.R l + j) % s.slotCount.toNat)

/-- The item a PUSH of `len` bytes leaves in a slot that held `old`: the payload, then the stale tail
(41_push.md R123). -/
def pushedItem (payload old : List Byte) : List Byte := payload ++ old.drop payload.length

/-- The two states differ at most in the store, and agree on every byte of the configured region of
an Active block: the store bytes R29 and R201 call unobservable are the only difference. -/
def SameButUnseenStore (s t : State) : Prop :=
  t = s.setStore t.store ∧ (s.active = true → ∀ a < s.region, t.store.read a = s.store.read a)

/-- The number of commands the requesters have still to issue. -/
def State.pendingCount (s : State) : Nat := (s.requesters.map fun r => r.issue.length).sum

/-- The outcome is a next state whose response has the status `st`. -/
def Answers (o : Outcome) (st : Status) : Prop :=
  ∃ t r, o = .next t ∧ t.response = some r ∧ r.status = st

/-- `f` applied to the next state of an outcome; a stop passes through. -/
def mapNext (f : State → State) : Outcome → Outcome
  | .next s => .next (f s)
  | .fault e => .fault e
  | .refused e => .refused e

/-- `n` POPs one after another. -/
def popTimes : Nat → State → Outcome
  | 0, s => .next s
  | n + 1, s =>
    match popTimes n s with
    | .next t => exec .pop t
    | o => o

/-- Lane `l` is the one the scanner serves: in range, not empty, and every lane before it empty
(42_pop.md R150, R153). -/
def State.ScanServes (s : State) (l : Nat) : Prop :=
  l < s.laneCount.toNat ∧ s.laneEmpty l = false ∧ ∀ j < l, s.laneEmpty j = true

/-- A PUSH with lane operand `lane` goes to lane `l` (41_push.md R121: the lane test passed in
priority mode, LANE ignored in single-lane mode). -/
def State.PushGoesTo (s : State) (lane : BitVec 8) (l : Nat) : Prop :=
  (s.prioEn = true ∧ lane.toNat < s.laneCount.toNat ∧ l = lane.toNat) ∨ (s.prioEn = false ∧ l = 0)

/-- A run of `n` steps ends in a next state that meets the invariant: nothing stopped it. -/
def SafeRun (n : Nat) (s : State) : Prop :=
  ∃ t, Host.Core.run Sys2Proof.core n s = .next t ∧ t.Inv

end Sys2Proof.Machine
end

