-- ==== Sys2Proof/Certificates/Slice0/Obligations.lean ====
section
/-! DEFINITION. The statements for the provers. Each docstring names the rules of spec/ it formalises.
None rests on a value the model chose: the free values (Config.freeDout, Config.arbiter) and the
unlisted store byte have no say in any of them. -/

open Sys2Proof Sys2Proof.Machine

/-! ### Command words -/

/-- R82 to R86: no bit of an encoding is dropped. Every command's word decodes to that command. -/
def Obligations.DecodeOfEncode : Prop :=
  ∀ i : Instr, decode (encode i) = .ok i ∧ decodeTableWord 32 (encode i).toNat = some i

/-- R82 to R85: a word that decodes to a command is the word of that command, reserved bits 0. -/
def Obligations.EncodeOfDecode : Prop :=
  ∀ (w : Word) (i : Instr), decode w = .ok i → encode i = w

/-- R89: a word is the command of the row it matches, at most one row matches, and the reserved
opcodes are no command. -/
def Obligations.RowsSelectTheCommand : Prop :=
  ∀ w : Word,
    ((∃ pe level scount ssize, decode w = .ok (.register pe level scount ssize)) ↔ w &&& 0x000000EF = 0x00000001) ∧
    (decode w = .ok .unregister ↔ w &&& 0xFFFFFFFF = 0x00000002) ∧
    ((∃ lane len, decode w = .ok (.push lane len)) ↔ w &&& 0x000000FF = 0x00000003) ∧
    (decode w = .ok .pop ↔ w &&& 0xFFFFFFFF = 0x00000004) ∧
    (∀ r ∈ opcodeRows, ∀ r' ∈ opcodeRows, r.matches w = true → r'.matches w = true → r = r') ∧
    (w.toNat % 16 = 0 ∨ 5 ≤ w.toNat % 16 → ∃ e, decode w = .error e)

/-- R86: every field is read straight from its bits, as an unsigned number. -/
def Obligations.FieldsReadStraight : Prop :=
  ∀ w : Word,
    (∀ pe level scount ssize, decode w = .ok (.register pe level scount ssize) →
      pe.toNat = w.toNat / 2 ^ 4 % 2 ∧ level.toNat = w.toNat / 2 ^ 8 % 2 ^ 8 ∧
      scount.toNat = w.toNat / 2 ^ 16 % 2 ^ 8 ∧ ssize.toNat = w.toNat / 2 ^ 24 % 2 ^ 8) ∧
    ∀ lane len, decode w = .ok (.push lane len) →
      lane.toNat = w.toNat / 2 ^ 8 % 2 ^ 8 ∧ len.toNat = w.toNat / 2 ^ 16 % 2 ^ 16

/-- Words written out from the patterns of R82 to R85 decode to the commands they stand for
(00_scope.md R8's vectors V97, V98, V34, and the two fixed words). -/
def Obligations.SpecWordsDecode : Prop :=
  decode 0b00001010_00001011_00001100_0000_0001#32 = .ok (.register false 12 11 10) ∧
  decode 0b00001010_00001011_00001100_0001_0001#32 = .ok (.register true 12 11 10) ∧
  decode 0b00000000_00000000_00000000_0000_0010#32 = .ok .unregister ∧
  decode 0b0000000000000001_11001000_0000_0011#32 = .ok (.push 200 1) ∧
  decode 0b00000000_00000000_00000000_0000_0100#32 = .ok .pop

/-- R90, R91: the illegal words are those with a reserved opcode and those with a reserved bit of
their command's format set; in every state such a word answers InvalidParameter and writes nothing
but the response. -/
def Obligations.IllegalWordIsRefusedFirst : Prop :=
  ∀ w : Word,
    ((∀ i, decode w ≠ .ok i) ↔
      (bits w 0 4 = 0 ∨ 5 ≤ (bits w 0 4).toNat ∨ (bits w 0 4 = 1 ∧ bits w 5 3 ≠ 0) ∨
        (bits w 0 4 = 2 ∧ bits w 4 28 ≠ 0) ∨ (bits w 0 4 = 3 ∧ bits w 4 4 ≠ 0) ∨
        (bits w 0 4 = 4 ∧ bits w 4 28 ≠ 0))) ∧
    ((∀ i, decode w ≠ .ok i) → ∀ s : State,
      ∃ r : Response, r.status = .invalidParameter ∧ runCommand w s = .next (s.setResponse r))

/-! ### REGISTER and UNREGISTER -/

/-- R104: the statuses of REGISTER by cause, for every word with its opcode, legal or not. -/
def Obligations.RegisterStatusByCause : Prop :=
  ∀ (w : Word) (s : State), bits w 0 4 = 1 →
    let pe := w.getLsbD 4
    let level := bits w 8 8
    let scount := bits w 16 8
    let ssize := bits w 24 8
    let lanes := if pe = true then level.toNat else 1
    let misuse := bits w 5 3 ≠ 0 ∨ s.active = true ∨ (pe = true ∧ level = 0) ∨ scount = 0 ∨ ssize = 0
    let tooBig := s.params.maxLanes < lanes ∨ s.params.storeBytes < lanes * scount.toNat * ssize.toNat
    (misuse → Answers (runCommand w s) .invalidParameter) ∧
    (¬misuse → tooBig → Answers (runCommand w s) .outOfMemory) ∧
    (¬misuse → ¬tooBig →
      ∃ t r, runCommand w s = .next t ∧ t.response = some r ∧ r.status = .ok ∧ t.active = true ∧
        t.prioEn = pe ∧ t.laneCount.toNat = lanes ∧ t.slotCount = scount ∧ t.slotSize = ssize)

/-- R100, R103: where its checks pass, REGISTER completes: the configuration, every index register 0,
the configured region 0 and every other store byte, DOUT and the rest unchanged. -/
def Obligations.RegisterConfigures : Prop :=
  ∀ (pe : Bool) (level scount ssize : BitVec 8) (s : State), s.active = false → ¬(pe = true ∧ level = 0) →
    scount ≠ 0 → ssize ≠ 0 →
    (if pe = true then level.toNat else 1) ≤ s.params.maxLanes →
    (if pe = true then level.toNat else 1) * scount.toNat * ssize.toNat ≤ s.params.storeBytes →
    ∃ t, exec (.register pe level scount ssize) s = .next t ∧
      t = { s with
        active := true, prioEn := pe, laneCount := if pe = true then level else 1, slotCount := scount
        slotSize := ssize, widx := t.widx, ridx := t.ridx, store := t.store, response := some ⟨.ok, none⟩ } ∧
      t.widx.length = s.params.maxLanes ∧ t.ridx.length = s.params.maxLanes ∧
      (∀ l, t.W l = 0 ∧ t.R l = 0) ∧
      ∀ a, t.store.read a =
        if a < (if pe = true then level.toNat else 1) * scount.toNat * ssize.toNat then 0 else s.store.read a

/-- R100 `MemWrite(0, n, zeros)`: the zero fill computed at once is the zero bytes written one by one. -/
def Obligations.ZeroFillIsByteWrites : Prop :=
  ∀ (m : Memory) (n : Nat), m.wf → m.zeroFill 0 n = m.writeBytes 0 (List.replicate n 0)

/-- R110: UNREGISTER, whose only word is 0x00000002, completes from every state: the zero
configuration, every index register 0, the store 0, DOUT and the rest unchanged. -/
def Obligations.UnregisterReleases : Prop :=
  (∀ w : Word, decode w = .ok .unregister ↔ w = 0x00000002) ∧
  ∀ s : State, ∃ t, exec .unregister s = .next t ∧ runCommand 0x00000002 s = .next t ∧
    t = { s with
      active := false, prioEn := false, laneCount := 0, slotCount := 0, slotSize := 0
      widx := t.widx, ridx := t.ridx, store := t.store, response := some ⟨.ok, none⟩ } ∧
    t.widx.length = s.params.maxLanes ∧ t.ridx.length = s.params.maxLanes ∧
    (∀ l, t.W l = 0 ∧ t.R l = 0) ∧
    ∀ a, t.store.read a = if a < s.params.storeBytes then 0 else s.store.read a

/-- R59, R112: UNREGISTER returns Ok, a second one returns Ok and changes nothing, and one issued while
Unregistered leaves the state as it was, but for the store R111 calls unobservable. -/
def Obligations.UnregisterIsIdempotent : Prop :=
  ∀ s t : State, s.Inv → exec .unregister s = .next t →
    (∃ r, t.response = some r ∧ r.status = .ok) ∧ exec .unregister t = .next t ∧
    (s.active = false → t = { s with store := t.store, response := t.response })

/-- R113, R203: after UNREGISTER, PUSH and POP return InvalidParameter and DOUT keeps its value. -/
def Obligations.DataCommandsNeedRegistration : Prop :=
  ∀ s t : State, exec .unregister s = .next t →
    t.dout = s.dout ∧ Answers (exec .pop t) .invalidParameter ∧
    ∀ lane len, Answers (exec (.push lane len) t) .invalidParameter

/-! ### PUSH -/

/-- R126: the statuses of PUSH by cause, in order of precedence, for every word with its opcode; with Ok
the item is enqueued: the payload in the slot at WIDX[l], and WIDX[l] advanced. -/
def Obligations.PushStatusByCause : Prop :=
  ∀ (w : Word) (s : State), s.Inv → bits w 0 4 = 3 →
    let lane := bits w 8 8
    let len := bits w 16 16
    let misuse := bits w 4 4 ≠ 0 ∨ s.active = false ∨ s.slotSize.toNat < len.toNat ∨
      (s.prioEn = true ∧ s.laneCount.toNat ≤ lane.toNat)
    let l := if s.prioEn = true then lane.toNat else 0
    (misuse → Answers (runCommand w s) .invalidParameter) ∧
    (¬misuse → s.laneFull l = true → Answers (runCommand w s) .outOfMemory) ∧
    (¬misuse → s.laneFull l = false →
      ∃ t r, runCommand w s = .next t ∧ t.response = some r ∧ r.status = .ok ∧
        t.W l = (s.W l + 1) % s.slotCount.toNat ∧
        ∀ (k : Nat) (hk : k < dataWidth), k < len.toNat → t.store.read (s.slotAddr l (s.W l) + k) = s.din[k])

/-- R121: a PUSH whose checks pass completes: DIN[0..LEN) in the slot at WIDX[l], WIDX[l] advanced
modulo SLOT_COUNT, and nothing else written. -/
def Obligations.PushEnqueues : Prop :=
  ∀ (lane : BitVec 8) (len : BitVec 16) (s : State) (l : Nat), s.Inv → s.active = true →
    len.toNat ≤ s.slotSize.toNat → s.PushGoesTo lane l → s.laneFull l = false →
    ∃ t, exec (.push lane len) s = .next t ∧
      t = { s with widx := t.widx, store := t.store, response := some ⟨.ok, none⟩ } ∧
      t.widx.length = s.widx.length ∧
      t.W l = (s.W l + 1) % s.slotCount.toNat ∧ (∀ k, k ≠ l → t.W k = s.W k) ∧
      (∀ (k : Nat) (hk : k < dataWidth), k < len.toNat → t.store.read (s.slotAddr l (s.W l) + k) = s.din[k]) ∧
      ∀ a, a < s.slotAddr l (s.W l) ∨ s.slotAddr l (s.W l) + len.toNat ≤ a → t.store.read a = s.store.read a

/-- The frame of PUSH, for every state: only WIDX of the selected lane, LEN bytes
at that lane's write slot and the response may change; with no lane selected, only the response. -/
def Obligations.PushFrame : Prop :=
  ∀ (lane : BitVec 8) (len : BitVec 16) (s t : State), exec (.push lane len) s = .next t →
    t = { s with widx := t.widx, store := t.store, response := t.response } ∧
    (s.selectLane lane = none → t.widx = s.widx ∧ t.store = s.store) ∧
    ∀ l, s.selectLane lane = some l →
      (∀ k, k ≠ l → t.widx[k]? = s.widx[k]?) ∧
      ∀ a, a < s.slotAddr l (s.W l) ∨ s.slotAddr l (s.W l) + len.toNat ≤ a → t.store.read a = s.store.read a

/-- R125: a successful PUSH raises the lane's occupancy by exactly 1, so the lane is not empty, and is
full exactly when its occupancy becomes SLOT_COUNT - 1; a PUSH that raises a status writes nothing. -/
def Obligations.PushRaisesOccupancyByOne : Prop :=
  ∀ (lane : BitVec 8) (len : BitVec 16) (s t : State) (r : Response), s.Inv →
    exec (.push lane len) s = .next t → t.response = some r →
    (r.status ≠ .ok → t = { s with response := some r }) ∧
    (r.status = .ok → ∃ l, s.PushGoesTo lane l ∧ t.occupancy l = s.occupancy l + 1 ∧ t.laneEmpty l = false ∧
      (t.laneFull l = true ↔ s.occupancy l + 1 = s.slotCount.toNat - 1) ∧
      t = { s with widx := t.widx, store := t.store, response := some r } ∧
      ∀ k, k ≠ l → t.W k = s.W k)

/-- R124: a PUSH never changes a byte of a slot that holds an unread item of any lane. -/
def Obligations.PushNeverOverwritesUnread : Prop :=
  ∀ (lane : BitVec 8) (len : BitVec 16) (s t : State), s.Inv → s.active = true →
    exec (.push lane len) s = .next t →
    ∀ l < s.laneCount.toNat, ∀ j < s.occupancy l,
      t.slotBytes l ((s.R l + j) % s.slotCount.toNat) = s.slotBytes l ((s.R l + j) % s.slotCount.toNat)

/-- R123: an item pushed to an empty single lane comes back from the next POP (EXACT) with its LEN
bytes first, then the bytes the slot held before, and the rest of DOUT untouched. -/
def Obligations.PushThenPopReturnsPayload : Prop :=
  ∀ (lane : BitVec 8) (len : BitVec 16) (s : State), s.Inv → s.active = true → s.prioEn = false →
    s.params.popEmptyCheck = .exact → s.laneEmpty 0 = true → 2 ≤ s.slotCount.toNat →
    len.toNat ≤ s.slotSize.toNat →
    ∃ t u, exec (.push lane len) s = .next t ∧ exec .pop t = .next u ∧
      u.response = some ⟨.ok, some u.dout⟩ ∧ u.laneEmpty 0 = true ∧
      ∀ (k : Nat) (hk : k < dataWidth), u.dout[k] =
        if k < len.toNat then s.din[k]
        else if k < s.slotSize.toNat then s.store.read (s.slotAddr 0 (s.W 0) + k)
        else s.dout[k]

/-! ### POP -/

/-- R145: the statuses of a single-lane POP, in order of precedence, under both settings of
P_POP_EMPTY_CHECK, for every word with its opcode. -/
def Obligations.PopSingleStatusByCause : Prop :=
  ∀ (w : Word) (s : State), s.Inv → bits w 0 4 = 4 → s.prioEn = false →
    let misuse := bits w 4 28 ≠ 0 ∨ s.active = false
    let nothing := match s.params.popEmptyCheck with
      | .exact => s.R 0 = s.W 0
      | .legacyNext => (s.R 0 + 1) % s.slotCount.toNat = s.W 0
    (misuse → Answers (runCommand w s) .invalidParameter) ∧
    (¬misuse → nothing → Answers (runCommand w s) .noData) ∧
    (¬misuse → ¬nothing →
      ∃ t r, runCommand w s = .next t ∧ t.response = some r ∧ r.status = .ok ∧
        t.R 0 = (s.R 0 + 1) % s.slotCount.toNat ∧
        ∀ (k : Nat) (hk : k < dataWidth), k < s.slotSize.toNat →
          t.dout[k] = s.store.read (s.slotAddr 0 (s.R 0) + k))

/-- R141: a single-lane POP whose empty test fails completes: the SLOT_SIZE bytes of slot RIDX[0] in
DOUT, the rest of DOUT unchanged, RIDX[0] advanced, and nothing else written. Where the test holds it
answers NoData with nothing written. -/
def Obligations.PopSingleServes : Prop :=
  ∀ s : State, s.Inv → s.active = true → s.prioEn = false →
    (singleEmptyTest s.params.popEmptyCheck (s.R 0) (s.W 0) ((s.R 0 + 1) % s.slotCount.toNat) = true →
      exec .pop s = .next { s with response := some ⟨.noData, some s.dout⟩ }) ∧
    (singleEmptyTest s.params.popEmptyCheck (s.R 0) (s.W 0) ((s.R 0 + 1) % s.slotCount.toNat) = false →
      ∃ t, exec .pop s = .next t ∧
        t = { s with ridx := t.ridx, dout := t.dout, response := some ⟨.ok, some t.dout⟩ } ∧
        t.ridx.length = s.ridx.length ∧
        t.R 0 = (s.R 0 + 1) % s.slotCount.toNat ∧ (∀ k, k ≠ 0 → t.R k = s.R k) ∧
        ∀ (k : Nat) (hk : k < dataWidth), t.dout[k] =
          if k < s.slotSize.toNat then s.store.read (s.slotAddr 0 (s.R 0) + k) else s.dout[k])

/-- R156: the statuses of a priority-mode POP, in order of precedence, under both settings of
P_PRIO_EMPTY_STATUS, for every word with its opcode. -/
def Obligations.PopPriorityStatusByCause : Prop :=
  ∀ (w : Word) (s : State), s.Inv → bits w 0 4 = 4 → (s.active = true → s.prioEn = true) →
    let misuse := bits w 4 28 ≠ 0 ∨ s.active = false
    let allEmpty := ∀ l < s.laneCount.toNat, s.laneEmpty l = true
    (misuse → Answers (runCommand w s) .invalidParameter) ∧
    (¬misuse → allEmpty → s.params.prioEmptyStatus = .noData → Answers (runCommand w s) .noData) ∧
    (¬misuse → allEmpty → s.params.prioEmptyStatus = .legacyOk →
      ∃ t r, runCommand w s = .next t ∧ t.response = some r ∧ r.status = .ok ∧ t.dout = s.dout) ∧
    (¬misuse → ¬allEmpty →
      ∃ t r l, runCommand w s = .next t ∧ t.response = some r ∧ r.status = .ok ∧ s.ScanServes l ∧
        ∀ (k : Nat) (hk : k < dataWidth), k < s.slotSize.toNat →
          t.dout[k] = s.store.read (s.slotAddr l (s.R l) + k))

/-- R150, R151, R153: a priority-mode POP serves the least lane that is not empty and completes: its
oldest item in DOUT, its RIDX advanced, and no other lane's index and nothing else written. -/
def Obligations.PopPriorityServesLeastLane : Prop :=
  ∀ (s : State) (l : Nat), s.Inv → s.active = true → s.prioEn = true → s.ScanServes l →
    ∃ t, exec .pop s = .next t ∧
      t = { s with ridx := t.ridx, dout := t.dout, response := some ⟨.ok, some t.dout⟩ } ∧
      t.ridx.length = s.ridx.length ∧
      t.R l = (s.R l + 1) % s.slotCount.toNat ∧ (∀ k, k ≠ l → t.R k = s.R k) ∧
      ∀ (k : Nat) (hk : k < dataWidth), t.dout[k] =
        if k < s.slotSize.toNat then s.store.read (s.slotAddr l (s.R l) + k) else s.dout[k]

/-- R155: a priority-mode POP lowers the served lane's occupancy by exactly 1 and leaves every other
lane unchanged; an all-empty POP writes nothing under either setting. -/
def Obligations.PopPriorityLowersOccupancyByOne : Prop :=
  ∀ s t : State, s.Inv → s.active = true → s.prioEn = true → exec .pop s = .next t →
    ((∀ l < s.laneCount.toNat, s.laneEmpty l = true) → t = { s with response := t.response }) ∧
    ∀ l, s.ScanServes l →
      t.occupancy l + 1 = s.occupancy l ∧ ∀ k, k ≠ l → t.W k = s.W k ∧ t.R k = s.R k

/-- R144: a single-lane POP that returns Ok from a lane that is not empty lowers the occupancy of lane
0 by exactly 1, so the lane is not full, and is empty exactly when it held one item; under EXACT it
returns Ok from no other lane; a POP that raises a status writes nothing. -/
def Obligations.PopSingleLowersOccupancyByOne : Prop :=
  ∀ (s t : State) (r : Response), s.Inv → s.active = true → s.prioEn = false → exec .pop s = .next t →
    t.response = some r →
    (r.status ≠ .ok → t = { s with response := some r }) ∧
    (r.status = .ok → s.params.popEmptyCheck = .exact → s.laneEmpty 0 = false) ∧
    (r.status = .ok → s.laneEmpty 0 = false →
      t.occupancy 0 + 1 = s.occupancy 0 ∧ t.laneFull 0 = false ∧ (t.laneEmpty 0 = true ↔ s.occupancy 0 = 1))

/-- The frame of POP, for every state: only DOUT below SLOT_SIZE, the RIDX of the served lane (lane 0 in
single-lane mode, the least lane that is not empty in priority mode) and the response may change. -/
def Obligations.PopFrame : Prop :=
  ∀ s t : State, exec .pop s = .next t →
    t = { s with ridx := t.ridx, dout := t.dout, response := t.response } ∧
    (∀ (k : Nat) (hk : k < dataWidth), s.slotSize.toNat ≤ k → t.dout[k] = s.dout[k]) ∧
    (s.prioEn = false → ∀ k, k ≠ 0 → t.ridx[k]? = s.ridx[k]?) ∧
    (s.prioEn = true → ∀ k, ¬s.ScanServes k → t.ridx[k]? = s.ridx[k]?)

/-- R146 (under EXACT): from occupancy `k`, exactly `k` POPs return Ok, in FIFO order, and the next
returns NoData. -/
def Obligations.ExactPopsDrainInOrder : Prop :=
  ∀ s : State, s.Inv → s.active = true → s.prioEn = false → s.params.popEmptyCheck = .exact →
    (∀ n < s.occupancy 0, ∃ t, popTimes (n + 1) s = .next t ∧ t.response = some ⟨.ok, some t.dout⟩ ∧
      t.dout.toList.take s.slotSize.toNat = s.slotBytes 0 ((s.R 0 + n) % s.slotCount.toNat)) ∧
    Answers (popTimes (s.occupancy 0 + 1) s) .noData

/-- R143: the legacy test holds exactly when the occupancy is 1 modulo SLOT_COUNT. -/
def Obligations.LegacyTestIsOccupancyOne : Prop :=
  ∀ s : State, s.Inv → s.active = true → s.prioEn = false →
    ((s.R 0 + 1) % s.slotCount.toNat = s.W 0 ↔
      s.occupancy 0 % s.slotCount.toNat = 1 % s.slotCount.toNat)

/-- R143: under LEGACY_NEXT with SLOT_COUNT at least 2, a POP on an empty lane returns Ok with the
stale slot RIDX[0], makes the occupancy SLOT_COUNT - 1 and the lane full, so the next PUSH returns
OutOfMemory; a POP on a lane that holds one item returns NoData and leaves it in place. -/
def Obligations.LegacyPopOnEmptyFillsTheLane : Prop :=
  ∀ s : State, s.Inv → s.active = true → s.prioEn = false → s.params.popEmptyCheck = .legacyNext →
    2 ≤ s.slotCount.toNat →
    (s.laneEmpty 0 = true → ∃ t, exec .pop s = .next t ∧ t.response = some ⟨.ok, some t.dout⟩ ∧
      t.dout.toList.take s.slotSize.toNat = s.slotBytes 0 (s.R 0) ∧
      t.occupancy 0 = s.slotCount.toNat - 1 ∧ t.laneFull 0 = true ∧
      ∀ lane len, len.toNat ≤ s.slotSize.toNat → Answers (exec (.push lane len) t) .outOfMemory) ∧
    (s.occupancy 0 = 1 → exec .pop s = .next { s with response := some ⟨.noData, some s.dout⟩ })

/-- R143: under LEGACY_NEXT, from an empty lane SLOT_COUNT - 1 POPs return Ok, then one returns NoData. -/
def Obligations.LegacyPopsFromEmpty : Prop :=
  ∀ s : State, s.Inv → s.active = true → s.prioEn = false → s.params.popEmptyCheck = .legacyNext →
    s.laneEmpty 0 = true →
    (∀ n, 1 ≤ n → n < s.slotCount.toNat → Answers (popTimes n s) .ok) ∧
    Answers (popTimes s.slotCount.toNat s) .noData

/-! ### Lanes, slots and the queues they make -/

/-- R32 to R34: the occupancy is below SLOT_COUNT, is 0 exactly when the lane is empty, and is
SLOT_COUNT - 1 exactly when it is full. -/
def Obligations.OccupancyEmptyFull : Prop :=
  ∀ (s : State) (l : Nat), s.Inv → s.active = true → l < s.laneCount.toNat →
    s.occupancy l < s.slotCount.toNat ∧ (s.occupancy l = 0 ↔ s.laneEmpty l = true) ∧
    (s.occupancy l = s.slotCount.toNat - 1 ↔ s.laneFull l = true)

/-- R35: with SLOT_COUNT = 1 every lane is full and empty at once; every PUSH that passes its checks
returns OutOfMemory, and every POP finds nothing, under both settings of both parameters. -/
def Obligations.OneSlotLaneHoldsNothing : Prop :=
  ∀ s : State, s.Inv → s.active = true → s.slotCount = 1 →
    (∀ l < s.laneCount.toNat, s.laneFull l = true ∧ s.laneEmpty l = true) ∧
    (∀ lane len l, len.toNat ≤ s.slotSize.toNat → s.PushGoesTo lane l →
      Answers (exec (.push lane len) s) .outOfMemory) ∧
    (∃ r, exec .pop s = .next (s.setResponse r)) ∧
    (s.prioEn = false → Answers (exec .pop s) .noData)

/-- R51, R52: the slots of the configured lanes do not overlap, and every byte of the configured
region belongs to exactly one slot. -/
def Obligations.SlotsPartitionTheRegion : Prop :=
  ∀ s : State,
    (∀ l i b, l < s.laneCount.toNat → i < s.slotCount.toNat → b < s.slotSize.toNat → s.slotAddr l i + b < s.region) ∧
    (∀ l i b l' i' b', i < s.slotCount.toNat → b < s.slotSize.toNat → i' < s.slotCount.toNat →
      b' < s.slotSize.toNat → s.slotAddr l i + b = s.slotAddr l' i' + b' → l = l' ∧ i = i' ∧ b = b') ∧
    ∀ a < s.region, ∃ l i b, l < s.laneCount.toNat ∧ i < s.slotCount.toNat ∧ b < s.slotSize.toNat ∧
      a = s.slotAddr l i + b

/-- R33, R53, R121, R141, R151: the lanes are first-in first-out queues. A PUSH that returns Ok adds its
item (the payload and the stale tail) at the end of its lane's queue; a POP that serves a lane that is
not empty takes the first item of that lane's queue into DOUT; no other lane's queue changes. Such a
POP serves the lane in priority mode and under EXACT; under LEGACY_NEXT it does where it returns Ok
(R144). -/
def Obligations.LanesAreFifoQueues : Prop :=
  ∀ s t : State, s.Inv → s.active = true →
    (∀ lane len l, len.toNat ≤ s.slotSize.toNat → s.PushGoesTo lane l → s.laneFull l = false →
      exec (.push lane len) s = .next t →
      t.laneItems l = s.laneItems l ++ [pushedItem (s.payload len) (s.slotBytes l (s.W l))] ∧
      ∀ k < s.laneCount.toNat, k ≠ l → t.laneItems k = s.laneItems k) ∧
    (∀ l, s.ScanServes l → exec .pop s = .next t →
      (s.prioEn = true ∨ s.params.popEmptyCheck = .exact ∨ ∃ r, t.response = some r ∧ r.status = .ok) →
      s.laneItems l = t.dout.toList.take s.slotSize.toNat :: t.laneItems l ∧
      ∀ k < s.laneCount.toNat, k ≠ l → t.laneItems k = s.laneItems k)

/-! ### Statuses and writers, over all commands -/

/-- R170: the 2-bit codes of the four statuses; each of the four values is a status. -/
def Obligations.StatusCodes : Prop :=
  Status.code .ok = 0b00#2 ∧ Status.code .invalidParameter = 0b01#2 ∧ Status.code .outOfMemory = 0b10#2 ∧
    Status.code .noData = 0b11#2 ∧ (∀ c : BitVec 2, ∃ st : Status, st.code = c) ∧
    ∀ st st' : Status, st.code = st'.code → st = st'

/-- R173: NoData is returned only by POP, and exactly when the single-lane empty test holds, or every
lane is empty in priority mode and P_PRIO_EMPTY_STATUS is NODATA. -/
def Obligations.NoDataOnlyFromPop : Prop :=
  ∀ (i : Instr) (s : State), s.Inv →
    (Answers (exec i s) .noData ↔ i = .pop ∧ s.active = true ∧
      ((s.prioEn = false ∧
          singleEmptyTest s.params.popEmptyCheck (s.R 0) (s.W 0) ((s.R 0 + 1) % s.slotCount.toNat) = true) ∨
        (s.prioEn = true ∧ (∀ l < s.laneCount.toNat, s.laneEmpty l = true) ∧
          s.params.prioEmptyStatus = .noData)))

/-- R172: OutOfMemory has exactly two causes: a REGISTER whose configuration does not fit, and a PUSH
whose selected lane is full. -/
def Obligations.OutOfMemoryCauses : Prop :=
  ∀ (i : Instr) (s : State), Answers (exec i s) .outOfMemory →
    (∃ pe level scount ssize, i = .register pe level scount ssize ∧
      (s.params.maxLanes < (if pe = true then level.toNat else 1) ∨
        s.params.storeBytes < (if pe = true then level.toNat else 1) * scount.toNat * ssize.toNat)) ∨
    ∃ lane len l, i = .push lane len ∧ s.PushGoesTo lane l ∧ s.laneFull l = true

/-- R175: every status but Ok leaves the whole state as it was, for every command and for illegal
words, and the block stays usable: the invariant holds as before. -/
def Obligations.FailureLeavesTheState : Prop :=
  ∀ (w : Word) (s t : State) (r : Response), runCommand w s = .next t → t.response = some r →
    r.status ≠ .ok → t = { s with response := some r } ∧ (s.Inv → t.Inv)

/-- R20, R25, R30: only REGISTER and UNREGISTER write the five configuration registers; only REGISTER
makes an Unregistered block Active; UNREGISTER makes it Unregistered; only POP writes DOUT; no command
writes a parameter. -/
def Obligations.WritersOfTheRegisters : Prop :=
  ∀ (i : Instr) (s t : State), exec i s = .next t →
    t.params = s.params ∧
    (i = .unregister → t.active = false) ∧
    (s.active = false → t.active = true → ∃ pe level scount ssize, i = .register pe level scount ssize) ∧
    (i = .pop ∨ (∃ lane len, i = .push lane len) →
      t.active = s.active ∧ t.prioEn = s.prioEn ∧ t.laneCount = s.laneCount ∧ t.slotCount = s.slotCount ∧
      t.slotSize = s.slotSize) ∧
    (i ≠ .pop → t.dout = s.dout)

/-- R87, R88: LEVEL is ignored when PE = 0, LANE in single-lane mode, DIN[k] for k >= LEN by PUSH, and
DIN by every other command. -/
def Obligations.IgnoredOperands : Prop :=
  (∀ level level' scount ssize s,
    exec (.register false level scount ssize) s = exec (.register false level' scount ssize) s) ∧
  (∀ lane lane' len s, s.prioEn = false → exec (.push lane len) s = exec (.push lane' len) s) ∧
  (∀ (lane : BitVec 8) (len : BitVec 16) (s : State) (d : DataVec),
    (∀ (k : Nat) (hk : k < dataWidth), k < len.toNat → d[k] = s.din[k]) →
    exec (.push lane len) (s.setDin d) = mapNext (fun t => t.setDin d) (exec (.push lane len) s)) ∧
  ∀ (i : Instr) (s : State) (d : DataVec), (∀ lane len, i ≠ .push lane len) →
    exec i (s.setDin d) = mapNext (fun t => t.setDin d) (exec i s)

/-- R31, R185, R188: no command reads who else issues commands, the serialization order, or the last
response; each does the same in every surroundings. -/
def Obligations.CommandsIgnoreTheSurroundings : Prop :=
  ∀ (i : Instr) (s : State) (rs : List Requester) (es : List Event) (n : Nat) (x : Option Response),
    exec i { s with requesters := rs, schedule := es, draws := n, response := x } =
      mapNext (fun t => { t with requesters := rs, schedule := es, draws := n }) (exec i s)

/-- R29, R37, R201: the store bytes outside the configured region, and all of them while Unregistered,
are not observable: two states that differ in them alone step to states that differ in them alone,
so every status and every DOUT copy is the same. -/
def Obligations.UnseenStoreIsUnobservable : Prop :=
  ∀ s t : State, s.Inv → t.Inv → SameButUnseenStore s t →
    ∃ s' t', step s = .next s' ∧ step t = .next t' ∧ SameButUnseenStore s' t'

/-! ### Reset, the invariant, and steps -/

/-- R40, R200: the values of power-on reset that the spec gives, for every value of the parameters. -/
def Obligations.ResetValues : Prop :=
  (∀ (p : Params) (rs : List Requester) (es : List Event) (n : Nat),
    let s := State.resetWith p rs es n
    s.active = false ∧ s.prioEn = false ∧ s.laneCount = 0 ∧ s.slotCount = 0 ∧ s.slotSize = 0 ∧
    s.widx.length = p.maxLanes ∧ s.ridx.length = p.maxLanes ∧ ∀ l, s.W l = 0 ∧ s.R l = 0) ∧
  ∃ p n, State.reset = State.resetWith p [] [] n

/-- The invariant of R36 and R37 holds after power-on reset, whatever the legal parameters. -/
def Obligations.ResetMeetsTheInvariant : Prop :=
  State.reset.Inv ∧
  ∀ (p : Params) (rs : List Requester) (es : List Event) (n : Nat), p.Legal → (State.resetWith p rs es n).Inv

/-- R36, R37: every step keeps the invariant, from every state that has it. -/
def Obligations.StepKeepsTheInvariant : Prop :=
  ∀ s t : State, s.Inv → step s = .next t → t.Inv

/-- R66, R175, R179: no step from a state with the invariant stops: every command completes in its one
step and returns a status, and no trap exists. -/
def Obligations.StepNeverStops : Prop :=
  ∀ s : State, s.Inv → ∃ t, step s = .next t

/-- R66, R70: every run from a state with the invariant, of any length, goes through. -/
def Obligations.EveryRunIsSafe : Prop :=
  ∀ (n : Nat) (s : State), s.Inv → SafeRun n s

/-- A step runs the decoded command (R60, R80, R90, R91): the granted requester's request is taken, its
word is decoded and executed, or answered as illegal, and the response is delivered. A word placed
by withFetchWord is run by the very next step. -/
def Obligations.StepRunsTheDecodedCommand : Prop :=
  (∀ (s : State) (k : Nat) (es : List Event) (q : Request), s.schedule = .grant k :: es → s.outstanding k = some q →
    (∀ i, decode q.cmd = .ok i →
      step s = deliverOutcome k (exec i (acceptRequest k q (s.setSchedule es)))) ∧
    ∀ e, decode q.cmd = .error e →
      step s = deliverOutcome k (illegalCommand (acceptRequest k q (s.setSchedule es)))) ∧
  ∀ (s : State) (w : Nat) (i : Instr), decodeTableWord 32 w = some i →
    step (s.withFetchWord 32 w) =
      deliverOutcome s.requesters.length (exec i (s.setRequesters (s.requesters ++ [⟨[], []⟩])))

/-- R61, R80: serving requester `k` takes its outstanding command, gives it the response (for POP with
the copy of DOUT as the command left it), makes its next command the outstanding one, and changes
nothing any other requester has or has received. -/
def Obligations.ResponseReachesTheRequester : Prop :=
  ∀ (s : State) (k : Nat) (es : List Event) (q : Request) (rest : List Request) (rx : List Response), s.Inv →
    s.schedule = .grant k :: es → s.requesters[k]? = some ⟨q :: rest, rx⟩ →
    ∃ t r, step s = .next t ∧ t.response = some r ∧ t.requesters[k]? = some ⟨rest, r :: rx⟩ ∧
      (decode q.cmd = .ok .pop → r.dout = some t.dout) ∧
      (∀ j, j ≠ k → t.requesters[j]? = s.requesters[j]?) ∧ t.schedule = es

/-- R58, R190: with no command outstanding and no reset, the block holds its state unchanged. -/
def Obligations.IdleBlockHoldsItsState : Prop :=
  ∀ s : State, s.schedule = [] → (∀ k, s.outstanding k = none) → step s = .next s

/-- R200, R202: a pulse of the reset input, from every state, leaves the block Unregistered with the zero
configuration and every index register 0; the requesters and the parameters are as before (that the
outstanding commands stay so is the model's choice, log 4). -/
def Obligations.ResetInputUnregisters : Prop :=
  ∀ (s : State) (es : List Event), s.schedule = .reset :: es →
    ∃ t, step s = .next t ∧ t.active = false ∧ t.prioEn = false ∧ t.laneCount = 0 ∧ t.slotCount = 0 ∧
      t.slotSize = 0 ∧ t.widx.length = s.params.maxLanes ∧ t.ridx.length = s.params.maxLanes ∧
      (∀ l, t.W l = 0 ∧ t.R l = 0) ∧ t.params = s.params ∧ t.requesters = s.requesters ∧ t.schedule = es

/-- R66, R221: whatever the serializer chooses, every command the requesters have issued or will issue
is answered, within as many steps as there are commands (no entry of the schedule being left). That
the requesters hold finite queues of commands is the model's choice, log 5. -/
def Obligations.EveryCommandIsAnswered : Prop :=
  ∀ s : State, s.Inv → s.schedule = [] →
    ∃ t, Host.Core.run Sys2Proof.core s.pendingCount s = .next t ∧ t.pendingCount = 0 ∧
      ∀ (k : Nat) (r : Requester), s.requesters[k]? = some r →
        ∃ r', t.requesters[k]? = some r' ∧ r'.issue = [] ∧
          r'.received.length = r.received.length + r.issue.length

/-- R60, R62, R63 (95_test_vectors.md 3.5): a producer's PUSH and a consumer's POP issued together on an
empty single lane (EXACT) may be serialized either way, and both are admitted: PUSH first, the POP
returns the payload; POP first, it returns NoData with DOUT untouched, and the PUSH returns Ok. -/
def Obligations.EitherOrderIsAdmitted : Prop :=
  ∀ (s : State) (qa qb : Request) (lane : BitVec 8) (len : BitVec 16), s.Inv → s.active = true →
    s.prioEn = false → s.params.popEmptyCheck = .exact → s.laneEmpty 0 = true → 2 ≤ s.slotCount.toNat →
    len.toNat ≤ s.slotSize.toNat → decode qa.cmd = .ok (.push lane len) → decode qb.cmd = .ok .pop →
    s.requesters = [⟨[qa], []⟩, ⟨[qb], []⟩] →
    (∃ t ra rb d, Host.Core.run Sys2Proof.core 2 { s with schedule := [.grant 0, .grant 1] } = .next t ∧
      t.requesters = [⟨[], [ra]⟩, ⟨[], [rb]⟩] ∧ ra.status = .ok ∧ rb = ⟨.ok, some d⟩ ∧
      ∀ (k : Nat) (hk : k < dataWidth), k < len.toNat → d[k] = qa.din[k]) ∧
    ∃ t ra rb, Host.Core.run Sys2Proof.core 2 { s with schedule := [.grant 1, .grant 0] } = .next t ∧
      t.requesters = [⟨[], [ra]⟩, ⟨[], [rb]⟩] ∧ ra.status = .ok ∧ rb = ⟨.noData, some s.dout⟩

/-- R186, R66, R190: no operation waits and nothing times out. Every command word is answered in its one
step and leaves nothing pending; a PUSH on a full lane and a POP that finds every lane empty (in
priority mode, or under EXACT) are answered at once with nothing written but the response; and the
block has no timer or counter that runs: with no command outstanding any number of steps leaves the
state unchanged. -/
def Obligations.NoCommandWaits : Prop :=
  (∀ (w : Word) (s : State), s.Inv →
    ∃ t r, runCommand w s = .next t ∧ t.response = some r ∧ t.requesters = s.requesters ∧
      t.schedule = s.schedule ∧ t.draws = s.draws ∧ t.params = s.params) ∧
  (∀ (lane : BitVec 8) (len : BitVec 16) (s : State) (l : Nat), s.Inv → s.active = true →
    len.toNat ≤ s.slotSize.toNat → s.PushGoesTo lane l → s.laneFull l = true →
    exec (.push lane len) s = .next { s with response := some ⟨.outOfMemory, none⟩ }) ∧
  (∀ s : State, s.Inv → s.active = true → s.prioEn = true ∨ s.params.popEmptyCheck = .exact →
    (∀ l < s.laneCount.toNat, s.laneEmpty l = true) →
    ∃ st, exec .pop s = .next { s with response := some ⟨st, some s.dout⟩ } ∧
      (st = .noData ∨ (st = .ok ∧ s.prioEn = true ∧ s.params.prioEmptyStatus = .legacyOk))) ∧
  ∀ (n : Nat) (s : State), s.schedule = [] → (∀ k, s.outstanding k = none) →
    Host.Core.run Sys2Proof.core n s = .next s
end

