-- ==== Sys2Proof/Laws/Memory.lean ====
section
/-! SUPPORT. The laws of the store: read after write, the canonical form kept by every operation,
and equality of canonical stores that read alike. -/

namespace Sys2Proof.Machine.Memory

@[simp] theorem read_nil (a : Nat) : Memory.read [] a = 0 := rfl

theorem read_cons (c : Host.Cell) (m : Memory) (a : Nat) :
    Memory.read (c :: m) a = if a = c.1 then c.2 else Memory.read m a := by
  obtain ⟨b, u⟩ := c; rfl

/-- A byte at an offset that is not listed reads as the unlisted byte. -/
theorem read_of_not_listed {m : Memory} {a : Nat} (h : ∀ c ∈ m, c.1 ≠ a) : m.read a = 0 := by
  induction m with
  | nil => rfl
  | cons c m ih =>
    rw [read_cons, if_neg (fun e => h c (by simp) e.symm), ih fun d hd => h d (by simp [hd])]

theorem read_of_lt_all {m : Memory} {a : Nat} (h : ∀ c ∈ m, a < c.1) : m.read a = 0 :=
  read_of_not_listed fun c hc => by have := h c hc; omega

/-- A listed cell is what its offset reads as. -/
theorem read_of_mem {m : Memory} (hw : m.wf) {c : Host.Cell} (hc : c ∈ m) : m.read c.1 = c.2 := by
  induction m with
  | nil => simp at hc
  | cons d m ih =>
    have hp := List.pairwise_cons.1 hw.1
    rw [read_cons]
    rcases List.mem_cons.1 hc with rfl | hm
    · simp
    · rw [if_neg (by have := hp.1 c hm; omega)]
      exact ih ⟨hp.2, fun e he => hw.2 e (by simp [he])⟩ hm

theorem wf_tail {c : Host.Cell} {m : Memory} (h : Memory.wf (c :: m)) : m.wf :=
  ⟨(List.pairwise_cons.1 h.1).2, fun d hd => h.2 d (by simp [hd])⟩

theorem head_lt {c : Host.Cell} {m : Memory} (h : Memory.wf (c :: m)) : ∀ d ∈ m, c.1 < d.1 :=
  (List.pairwise_cons.1 h.1).1

theorem wf_cons {c : Host.Cell} {m : Memory} (hc : c.2 ≠ 0) (hl : ∀ d ∈ m, c.1 < d.1) (h : m.wf) :
    Memory.wf (c :: m) :=
  ⟨List.pairwise_cons.2 ⟨hl, h.1⟩, by
    intro d hd
    rcases List.mem_cons.1 hd with rfl | hm
    · exact hc
    · exact h.2 d hm⟩

theorem wf_nil : Memory.wf [] := ⟨List.Pairwise.nil, by simp⟩

/-- The cells after a write are the written one and old ones at other offsets. -/
theorem mem_write {m : Memory} {a : Nat} {v : Byte} {c : Host.Cell} (h : c ∈ m.write a v) :
    c = (a, v) ∨ c ∈ m := by
  induction m with
  | nil => unfold Memory.write at h; split at h <;> simp_all
  | cons d m ih =>
    obtain ⟨b, u⟩ := d
    unfold Memory.write at h
    split at h
    · split at h
      · exact .inr h
      · simpa [or_comm] using h
    · split at h
      · split at h
        · exact .inr (by simp [h])
        · rcases List.mem_cons.1 h with rfl | h
          · exact .inl rfl
          · exact .inr (by simp [h])
      · rcases List.mem_cons.1 h with rfl | h
        · exact .inr (by simp)
        · exact (ih h).imp id fun h => by simp [h]

/-- A write keeps the canonical form. -/
theorem wf_write {m : Memory} (h : m.wf) (a : Nat) (v : Byte) : (m.write a v).wf := by
  induction m with
  | nil =>
    unfold Memory.write
    split
    · exact wf_nil
    · next hv => exact wf_cons hv (by simp) wf_nil
  | cons d m ih =>
    obtain ⟨b, u⟩ := d
    have ht := wf_tail h
    have hl := head_lt h
    unfold Memory.write
    split
    · next hab =>
      split
      · exact h
      · next hv =>
        refine wf_cons hv ?_ h
        intro d hd
        rcases List.mem_cons.1 hd with rfl | hd
        · exact hab
        · have := hl d hd; simp only at this ⊢; omega
    · split
      · split
        · exact ht
        · next hab hv =>
          subst hab
          exact wf_cons hv hl ht
      · next h1 h2 =>
        refine wf_cons (h.2 (b, u) (by simp)) ?_ (ih ht)
        intro d hd
        rcases mem_write hd with rfl | hd
        · simp only; omega
        · exact hl d hd

/-- Read after write (20_memory.md R62): the written offset reads as written, every other as before. -/
theorem read_write {m : Memory} (h : m.wf) (a : Nat) (v : Byte) (x : Nat) :
    (m.write a v).read x = if x = a then v else m.read x := by
  induction m with
  | nil =>
    unfold Memory.write
    split
    · next hv => simp [hv]
    · simp [read_cons]
  | cons d m ih =>
    obtain ⟨b, u⟩ := d
    have ht := wf_tail h
    have hl := head_lt h
    unfold Memory.write
    split
    · next hab =>
      split
      · next hv =>
        split
        · next hx =>
          subst hx
          rw [hv, read_of_lt_all]
          intro c hc
          rcases List.mem_cons.1 hc with rfl | hc
          · exact hab
          · have := hl c hc; simp only at this ⊢; omega
        · rfl
      · simp [read_cons]
    · split
      · next hab =>
        subst hab
        split
        · next hv =>
          rw [read_cons]
          split
          · next hx => subst hx; rw [hv]; exact read_of_lt_all hl
          · rfl
        · rw [read_cons, read_cons]
          split <;> simp_all
      · next h1 h2 =>
        rw [read_cons, read_cons, ih ht]
        simp only
        split
        · next hx => rw [if_neg (by omega)]
        · rfl

/-- A write leaves every other offset alone, canonical form or not. -/
theorem read_write_of_ne (m : Memory) {a x : Nat} (h : x ≠ a) (v : Byte) : (m.write a v).read x = m.read x := by
  induction m with
  | nil =>
    rw [Memory.write]
    split
    · rfl
    · exact if_neg h
  | cons c m ih =>
    obtain ⟨b, u⟩ := c
    rw [Memory.write]
    split_ifs with h1 h2 h2 h3
    · rfl
    · exact if_neg h
    · subst h2; exact (if_neg h).symm
    · subst h2; rw [Memory.read, Memory.read, if_neg h, if_neg h]
    · rw [Memory.read, Memory.read, ih]

/-- Writing a byte sequence leaves every offset outside it alone, canonical form or not. -/
theorem read_writeBytes_of_outside (m : Memory) {a x : Nat} (bs : List Byte) (h : x < a ∨ a + bs.length ≤ x) :
    (m.writeBytes a bs).read x = m.read x := by
  induction bs generalizing m a with
  | nil => rfl
  | cons b bs ih =>
    rw [List.length_cons] at h
    rw [Memory.writeBytes, ih _ (by omega), read_write_of_ne m (by omega)]

/-- Writing a byte sequence keeps the canonical form. -/
theorem wf_writeBytes {m : Memory} (h : m.wf) (a : Nat) (bs : List Byte) : (m.writeBytes a bs).wf := by
  induction bs generalizing m a with
  | nil => exact h
  | cons b bs ih => exact ih (wf_write h a b) (a + 1)

/-- Read after a write of a byte sequence: its bytes inside `[a, a + n)`, the old ones outside. -/
theorem read_writeBytes {m : Memory} (h : m.wf) (a : Nat) (bs : List Byte) (x : Nat) :
    (m.writeBytes a bs).read x = if a ≤ x ∧ x < a + bs.length then bs.getD (x - a) 0 else m.read x := by
  induction bs generalizing m a with
  | nil =>
    rw [if_neg (by simp)]
    rfl
  | cons b bs ih =>
    rw [Memory.writeBytes, ih (wf_write h a b) (a + 1), read_write h]
    simp only [List.length_cons]
    by_cases h1 : x = a
    · subst h1
      rw [if_neg (by omega), if_pos rfl, if_pos (by omega)]
      simp
    · rw [if_neg h1]
      by_cases h2 : a + 1 ≤ x ∧ x < a + 1 + bs.length
      · rw [if_pos h2, if_pos (by omega)]
        rw [show x - a = (x - (a + 1)) + 1 by omega]
        simp
      · rw [if_neg h2, if_neg (by omega)]

/-- The cells after writing a byte sequence lie inside it or are old ones. -/
theorem mem_writeBytes {m : Memory} {a : Nat} {bs : List Byte} {c : Host.Cell} (h : c ∈ m.writeBytes a bs) :
    c.1 < a + bs.length ∨ c ∈ m := by
  induction bs generalizing m a with
  | nil => exact .inr h
  | cons b bs ih =>
    rcases ih h with h | h
    · exact .inl (by simp only [List.length_cons]; omega)
    · rcases mem_write h with rfl | h
      · exact .inl (by simp only [List.length_cons]; omega)
      · exact .inr h

/-- A zero fill keeps the canonical form. -/
theorem wf_zeroFill {m : Memory} (h : m.wf) (a n : Nat) : (m.zeroFill a n).wf :=
  ⟨h.1.filter _, fun c hc => h.2 c (List.mem_of_mem_filter hc)⟩

theorem mem_zeroFill {m : Memory} {a n : Nat} {c : Host.Cell} (h : c ∈ m.zeroFill a n) : c ∈ m :=
  List.mem_of_mem_filter h

/-- Read after a zero fill: 0 inside `[a, a + n)`, the old byte outside. -/
theorem read_zeroFill (m : Memory) (a n x : Nat) :
    (m.zeroFill a n).read x = if a ≤ x ∧ x < a + n then 0 else m.read x := by
  induction m with
  | nil => simp [Memory.zeroFill]
  | cons c m ih =>
    unfold Memory.zeroFill at ih ⊢
    by_cases hc : c.1 < a ∨ a + n ≤ c.1
    · rw [List.filter_cons_of_pos (by simpa using hc), read_cons, read_cons, ih]
      split
      · next hx => rw [if_neg (by omega)]
      · rfl
    · rw [List.filter_cons_of_neg (by simpa using hc), ih, read_cons]
      split
      · rfl
      · next hx => rw [if_neg (by omega)]

@[simp] theorem length_readBytes (m : Memory) (a n : Nat) : (m.readBytes a n).length = n := by
  simp [Memory.readBytes]

/-- Byte `k` of a read is the byte at offset `a + k`. -/
theorem getElem?_readBytes (m : Memory) (a n k : Nat) :
    (m.readBytes a n)[k]? = if k < n then some (m.read (a + k)) else none := by
  unfold Memory.readBytes
  split
  · next h => simp [h]
  · next h => simp; omega

@[simp] theorem getElem_readBytes (m : Memory) (a n k : Nat) (h : k < (m.readBytes a n).length) :
    (m.readBytes a n)[k] = m.read (a + k) := by
  simp [Memory.readBytes]

/-- Reads of the same width are equal when the bytes are. -/
theorem readBytes_congr {m m' : Memory} {a a' n : Nat} (h : ∀ k < n, m.read (a + k) = m'.read (a' + k)) :
    m.readBytes a n = m'.readBytes a' n := by
  unfold Memory.readBytes
  exact List.map_congr_left fun k hk => h k (List.mem_range.1 hk)

/-- Canonical stores that read alike are equal. -/
theorem eq_of_read_eq {m m' : Memory} (h : m.wf) (h' : m'.wf) (hr : ∀ a, m.read a = m'.read a) : m = m' := by
  induction m generalizing m' with
  | nil =>
    cases m' with
    | nil => rfl
    | cons d m' =>
      exact absurd ((read_of_mem h' (by simp)).symm.trans (hr d.1).symm) (h'.2 d (by simp))
  | cons c m ih =>
    cases m' with
    | nil => exact absurd ((read_of_mem h (by simp)).symm.trans (hr c.1)) (h.2 c (by simp))
    | cons d m' =>
      have hc := hr c.1
      have hd := hr d.1
      have hlc := head_lt h
      have hld := head_lt h'
      have nc := h.2 c (by simp)
      have nd := h'.2 d (by simp)
      rw [read_cons, read_cons, if_pos rfl] at hc
      rw [read_cons, read_cons, if_pos rfl] at hd
      have e1 : c.1 = d.1 := by
        by_contra hne
        rw [if_neg hne] at hc
        rw [if_neg (Ne.symm hne)] at hd
        rcases Nat.lt_or_gt_of_ne hne with hlt | hgt
        · rw [read_of_lt_all fun e he => by have := hld e he; omega] at hc
          exact nc hc
        · rw [read_of_lt_all fun e he => by have := hlc e he; omega] at hd
          exact nd hd.symm
      rw [if_pos e1] at hc
      have e : c = d := Prod.ext e1 hc
      subst e
      congr 1
      refine ih (wf_tail h) (wf_tail h') fun a => ?_
      by_cases ha : a = c.1
      · subst ha
        rw [read_of_lt_all hlc, read_of_lt_all hld]
      · simpa [read_cons, ha] using hr a

end Sys2Proof.Machine.Memory
end

