-- ==== Sys2Proof/Laws/State.lean ====
section
/-! SUPPORT. One lemma per field and update of State, true by rfl, so that no proof unfolds a record
update; and the conditions of Flags.lean under those updates. -/

namespace Sys2Proof.Machine

section Fields
variable (s : State)

/-! `setWidx` -/

@[simp] theorem State.params_setWidx (l v : Nat) : (s.setWidx l v).params = s.params := rfl
@[simp] theorem State.active_setWidx (l v : Nat) : (s.setWidx l v).active = s.active := rfl
@[simp] theorem State.prioEn_setWidx (l v : Nat) : (s.setWidx l v).prioEn = s.prioEn := rfl
@[simp] theorem State.laneCount_setWidx (l v : Nat) : (s.setWidx l v).laneCount = s.laneCount := rfl
@[simp] theorem State.slotCount_setWidx (l v : Nat) : (s.setWidx l v).slotCount = s.slotCount := rfl
@[simp] theorem State.slotSize_setWidx (l v : Nat) : (s.setWidx l v).slotSize = s.slotSize := rfl
@[simp] theorem State.widx_setWidx (l v : Nat) : (s.setWidx l v).widx = s.widx.set l (BitVec.ofNat 16 v) := rfl
@[simp] theorem State.ridx_setWidx (l v : Nat) : (s.setWidx l v).ridx = s.ridx := rfl
@[simp] theorem State.store_setWidx (l v : Nat) : (s.setWidx l v).store = s.store := rfl
@[simp] theorem State.dout_setWidx (l v : Nat) : (s.setWidx l v).dout = s.dout := rfl
@[simp] theorem State.din_setWidx (l v : Nat) : (s.setWidx l v).din = s.din := rfl
@[simp] theorem State.response_setWidx (l v : Nat) : (s.setWidx l v).response = s.response := rfl
@[simp] theorem State.requesters_setWidx (l v : Nat) : (s.setWidx l v).requesters = s.requesters := rfl
@[simp] theorem State.schedule_setWidx (l v : Nat) : (s.setWidx l v).schedule = s.schedule := rfl
@[simp] theorem State.draws_setWidx (l v : Nat) : (s.setWidx l v).draws = s.draws := rfl

/-! `setRidx` -/

@[simp] theorem State.params_setRidx (l v : Nat) : (s.setRidx l v).params = s.params := rfl
@[simp] theorem State.active_setRidx (l v : Nat) : (s.setRidx l v).active = s.active := rfl
@[simp] theorem State.prioEn_setRidx (l v : Nat) : (s.setRidx l v).prioEn = s.prioEn := rfl
@[simp] theorem State.laneCount_setRidx (l v : Nat) : (s.setRidx l v).laneCount = s.laneCount := rfl
@[simp] theorem State.slotCount_setRidx (l v : Nat) : (s.setRidx l v).slotCount = s.slotCount := rfl
@[simp] theorem State.slotSize_setRidx (l v : Nat) : (s.setRidx l v).slotSize = s.slotSize := rfl
@[simp] theorem State.widx_setRidx (l v : Nat) : (s.setRidx l v).widx = s.widx := rfl
@[simp] theorem State.ridx_setRidx (l v : Nat) : (s.setRidx l v).ridx = s.ridx.set l (BitVec.ofNat 16 v) := rfl
@[simp] theorem State.store_setRidx (l v : Nat) : (s.setRidx l v).store = s.store := rfl
@[simp] theorem State.dout_setRidx (l v : Nat) : (s.setRidx l v).dout = s.dout := rfl
@[simp] theorem State.din_setRidx (l v : Nat) : (s.setRidx l v).din = s.din := rfl
@[simp] theorem State.response_setRidx (l v : Nat) : (s.setRidx l v).response = s.response := rfl
@[simp] theorem State.requesters_setRidx (l v : Nat) : (s.setRidx l v).requesters = s.requesters := rfl
@[simp] theorem State.schedule_setRidx (l v : Nat) : (s.setRidx l v).schedule = s.schedule := rfl
@[simp] theorem State.draws_setRidx (l v : Nat) : (s.setRidx l v).draws = s.draws := rfl

/-! `setStore` -/

@[simp] theorem State.params_setStore (m : Memory) : (s.setStore m).params = s.params := rfl
@[simp] theorem State.active_setStore (m : Memory) : (s.setStore m).active = s.active := rfl
@[simp] theorem State.prioEn_setStore (m : Memory) : (s.setStore m).prioEn = s.prioEn := rfl
@[simp] theorem State.laneCount_setStore (m : Memory) : (s.setStore m).laneCount = s.laneCount := rfl
@[simp] theorem State.slotCount_setStore (m : Memory) : (s.setStore m).slotCount = s.slotCount := rfl
@[simp] theorem State.slotSize_setStore (m : Memory) : (s.setStore m).slotSize = s.slotSize := rfl
@[simp] theorem State.widx_setStore (m : Memory) : (s.setStore m).widx = s.widx := rfl
@[simp] theorem State.ridx_setStore (m : Memory) : (s.setStore m).ridx = s.ridx := rfl
@[simp] theorem State.store_setStore (m : Memory) : (s.setStore m).store = m := rfl
@[simp] theorem State.dout_setStore (m : Memory) : (s.setStore m).dout = s.dout := rfl
@[simp] theorem State.din_setStore (m : Memory) : (s.setStore m).din = s.din := rfl
@[simp] theorem State.response_setStore (m : Memory) : (s.setStore m).response = s.response := rfl
@[simp] theorem State.requesters_setStore (m : Memory) : (s.setStore m).requesters = s.requesters := rfl
@[simp] theorem State.schedule_setStore (m : Memory) : (s.setStore m).schedule = s.schedule := rfl
@[simp] theorem State.draws_setStore (m : Memory) : (s.setStore m).draws = s.draws := rfl

/-! `setDout` -/

@[simp] theorem State.params_setDout (d : DataVec) : (s.setDout d).params = s.params := rfl
@[simp] theorem State.active_setDout (d : DataVec) : (s.setDout d).active = s.active := rfl
@[simp] theorem State.prioEn_setDout (d : DataVec) : (s.setDout d).prioEn = s.prioEn := rfl
@[simp] theorem State.laneCount_setDout (d : DataVec) : (s.setDout d).laneCount = s.laneCount := rfl
@[simp] theorem State.slotCount_setDout (d : DataVec) : (s.setDout d).slotCount = s.slotCount := rfl
@[simp] theorem State.slotSize_setDout (d : DataVec) : (s.setDout d).slotSize = s.slotSize := rfl
@[simp] theorem State.widx_setDout (d : DataVec) : (s.setDout d).widx = s.widx := rfl
@[simp] theorem State.ridx_setDout (d : DataVec) : (s.setDout d).ridx = s.ridx := rfl
@[simp] theorem State.store_setDout (d : DataVec) : (s.setDout d).store = s.store := rfl
@[simp] theorem State.dout_setDout (d : DataVec) : (s.setDout d).dout = d := rfl
@[simp] theorem State.din_setDout (d : DataVec) : (s.setDout d).din = s.din := rfl
@[simp] theorem State.response_setDout (d : DataVec) : (s.setDout d).response = s.response := rfl
@[simp] theorem State.requesters_setDout (d : DataVec) : (s.setDout d).requesters = s.requesters := rfl
@[simp] theorem State.schedule_setDout (d : DataVec) : (s.setDout d).schedule = s.schedule := rfl
@[simp] theorem State.draws_setDout (d : DataVec) : (s.setDout d).draws = s.draws := rfl

/-! `setDin` -/

@[simp] theorem State.params_setDin (d : DataVec) : (s.setDin d).params = s.params := rfl
@[simp] theorem State.active_setDin (d : DataVec) : (s.setDin d).active = s.active := rfl
@[simp] theorem State.prioEn_setDin (d : DataVec) : (s.setDin d).prioEn = s.prioEn := rfl
@[simp] theorem State.laneCount_setDin (d : DataVec) : (s.setDin d).laneCount = s.laneCount := rfl
@[simp] theorem State.slotCount_setDin (d : DataVec) : (s.setDin d).slotCount = s.slotCount := rfl
@[simp] theorem State.slotSize_setDin (d : DataVec) : (s.setDin d).slotSize = s.slotSize := rfl
@[simp] theorem State.widx_setDin (d : DataVec) : (s.setDin d).widx = s.widx := rfl
@[simp] theorem State.ridx_setDin (d : DataVec) : (s.setDin d).ridx = s.ridx := rfl
@[simp] theorem State.store_setDin (d : DataVec) : (s.setDin d).store = s.store := rfl
@[simp] theorem State.dout_setDin (d : DataVec) : (s.setDin d).dout = s.dout := rfl
@[simp] theorem State.din_setDin (d : DataVec) : (s.setDin d).din = d := rfl
@[simp] theorem State.response_setDin (d : DataVec) : (s.setDin d).response = s.response := rfl
@[simp] theorem State.requesters_setDin (d : DataVec) : (s.setDin d).requesters = s.requesters := rfl
@[simp] theorem State.schedule_setDin (d : DataVec) : (s.setDin d).schedule = s.schedule := rfl
@[simp] theorem State.draws_setDin (d : DataVec) : (s.setDin d).draws = s.draws := rfl

/-! `setResponse` -/

@[simp] theorem State.params_setResponse (r : Response) : (s.setResponse r).params = s.params := rfl
@[simp] theorem State.active_setResponse (r : Response) : (s.setResponse r).active = s.active := rfl
@[simp] theorem State.prioEn_setResponse (r : Response) : (s.setResponse r).prioEn = s.prioEn := rfl
@[simp] theorem State.laneCount_setResponse (r : Response) : (s.setResponse r).laneCount = s.laneCount := rfl
@[simp] theorem State.slotCount_setResponse (r : Response) : (s.setResponse r).slotCount = s.slotCount := rfl
@[simp] theorem State.slotSize_setResponse (r : Response) : (s.setResponse r).slotSize = s.slotSize := rfl
@[simp] theorem State.widx_setResponse (r : Response) : (s.setResponse r).widx = s.widx := rfl
@[simp] theorem State.ridx_setResponse (r : Response) : (s.setResponse r).ridx = s.ridx := rfl
@[simp] theorem State.store_setResponse (r : Response) : (s.setResponse r).store = s.store := rfl
@[simp] theorem State.dout_setResponse (r : Response) : (s.setResponse r).dout = s.dout := rfl
@[simp] theorem State.din_setResponse (r : Response) : (s.setResponse r).din = s.din := rfl
@[simp] theorem State.response_setResponse (r : Response) : (s.setResponse r).response = some r := rfl
@[simp] theorem State.requesters_setResponse (r : Response) : (s.setResponse r).requesters = s.requesters := rfl
@[simp] theorem State.schedule_setResponse (r : Response) : (s.setResponse r).schedule = s.schedule := rfl
@[simp] theorem State.draws_setResponse (r : Response) : (s.setResponse r).draws = s.draws := rfl

/-! `setRequesters` -/

@[simp] theorem State.params_setRequesters (rs : List Requester) : (s.setRequesters rs).params = s.params := rfl
@[simp] theorem State.active_setRequesters (rs : List Requester) : (s.setRequesters rs).active = s.active := rfl
@[simp] theorem State.prioEn_setRequesters (rs : List Requester) : (s.setRequesters rs).prioEn = s.prioEn := rfl
@[simp] theorem State.laneCount_setRequesters (rs : List Requester) : (s.setRequesters rs).laneCount = s.laneCount := rfl
@[simp] theorem State.slotCount_setRequesters (rs : List Requester) : (s.setRequesters rs).slotCount = s.slotCount := rfl
@[simp] theorem State.slotSize_setRequesters (rs : List Requester) : (s.setRequesters rs).slotSize = s.slotSize := rfl
@[simp] theorem State.widx_setRequesters (rs : List Requester) : (s.setRequesters rs).widx = s.widx := rfl
@[simp] theorem State.ridx_setRequesters (rs : List Requester) : (s.setRequesters rs).ridx = s.ridx := rfl
@[simp] theorem State.store_setRequesters (rs : List Requester) : (s.setRequesters rs).store = s.store := rfl
@[simp] theorem State.dout_setRequesters (rs : List Requester) : (s.setRequesters rs).dout = s.dout := rfl
@[simp] theorem State.din_setRequesters (rs : List Requester) : (s.setRequesters rs).din = s.din := rfl
@[simp] theorem State.response_setRequesters (rs : List Requester) : (s.setRequesters rs).response = s.response := rfl
@[simp] theorem State.requesters_setRequesters (rs : List Requester) : (s.setRequesters rs).requesters = rs := rfl
@[simp] theorem State.schedule_setRequesters (rs : List Requester) : (s.setRequesters rs).schedule = s.schedule := rfl
@[simp] theorem State.draws_setRequesters (rs : List Requester) : (s.setRequesters rs).draws = s.draws := rfl

/-! `setSchedule` -/

@[simp] theorem State.params_setSchedule (es : List Event) : (s.setSchedule es).params = s.params := rfl
@[simp] theorem State.active_setSchedule (es : List Event) : (s.setSchedule es).active = s.active := rfl
@[simp] theorem State.prioEn_setSchedule (es : List Event) : (s.setSchedule es).prioEn = s.prioEn := rfl
@[simp] theorem State.laneCount_setSchedule (es : List Event) : (s.setSchedule es).laneCount = s.laneCount := rfl
@[simp] theorem State.slotCount_setSchedule (es : List Event) : (s.setSchedule es).slotCount = s.slotCount := rfl
@[simp] theorem State.slotSize_setSchedule (es : List Event) : (s.setSchedule es).slotSize = s.slotSize := rfl
@[simp] theorem State.widx_setSchedule (es : List Event) : (s.setSchedule es).widx = s.widx := rfl
@[simp] theorem State.ridx_setSchedule (es : List Event) : (s.setSchedule es).ridx = s.ridx := rfl
@[simp] theorem State.store_setSchedule (es : List Event) : (s.setSchedule es).store = s.store := rfl
@[simp] theorem State.dout_setSchedule (es : List Event) : (s.setSchedule es).dout = s.dout := rfl
@[simp] theorem State.din_setSchedule (es : List Event) : (s.setSchedule es).din = s.din := rfl
@[simp] theorem State.response_setSchedule (es : List Event) : (s.setSchedule es).response = s.response := rfl
@[simp] theorem State.requesters_setSchedule (es : List Event) : (s.setSchedule es).requesters = s.requesters := rfl
@[simp] theorem State.schedule_setSchedule (es : List Event) : (s.setSchedule es).schedule = es := rfl
@[simp] theorem State.draws_setSchedule (es : List Event) : (s.setSchedule es).draws = s.draws := rfl

/-! `draw` -/

@[simp] theorem State.params_draw : s.draw.params = s.params := rfl
@[simp] theorem State.active_draw : s.draw.active = s.active := rfl
@[simp] theorem State.prioEn_draw : s.draw.prioEn = s.prioEn := rfl
@[simp] theorem State.laneCount_draw : s.draw.laneCount = s.laneCount := rfl
@[simp] theorem State.slotCount_draw : s.draw.slotCount = s.slotCount := rfl
@[simp] theorem State.slotSize_draw : s.draw.slotSize = s.slotSize := rfl
@[simp] theorem State.widx_draw : s.draw.widx = s.widx := rfl
@[simp] theorem State.ridx_draw : s.draw.ridx = s.ridx := rfl
@[simp] theorem State.store_draw : s.draw.store = s.store := rfl
@[simp] theorem State.dout_draw : s.draw.dout = s.dout := rfl
@[simp] theorem State.din_draw : s.draw.din = s.din := rfl
@[simp] theorem State.response_draw : s.draw.response = s.response := rfl
@[simp] theorem State.requesters_draw : s.draw.requesters = s.requesters := rfl
@[simp] theorem State.schedule_draw : s.draw.schedule = s.schedule := rfl
@[simp] theorem State.draws_draw : s.draw.draws = s.draws + 1 := rfl

/-! `configure` -/

@[simp] theorem State.params_configure (a p : Bool) (lc sc ss : BitVec 8) : (s.configure a p lc sc ss).params = s.params := rfl
@[simp] theorem State.active_configure (a p : Bool) (lc sc ss : BitVec 8) : (s.configure a p lc sc ss).active = a := rfl
@[simp] theorem State.prioEn_configure (a p : Bool) (lc sc ss : BitVec 8) : (s.configure a p lc sc ss).prioEn = p := rfl
@[simp] theorem State.laneCount_configure (a p : Bool) (lc sc ss : BitVec 8) : (s.configure a p lc sc ss).laneCount = lc := rfl
@[simp] theorem State.slotCount_configure (a p : Bool) (lc sc ss : BitVec 8) : (s.configure a p lc sc ss).slotCount = sc := rfl
@[simp] theorem State.slotSize_configure (a p : Bool) (lc sc ss : BitVec 8) : (s.configure a p lc sc ss).slotSize = ss := rfl
@[simp] theorem State.widx_configure (a p : Bool) (lc sc ss : BitVec 8) : (s.configure a p lc sc ss).widx = List.replicate s.params.maxLanes 0 := rfl
@[simp] theorem State.ridx_configure (a p : Bool) (lc sc ss : BitVec 8) : (s.configure a p lc sc ss).ridx = List.replicate s.params.maxLanes 0 := rfl
@[simp] theorem State.store_configure (a p : Bool) (lc sc ss : BitVec 8) : (s.configure a p lc sc ss).store = s.store := rfl
@[simp] theorem State.dout_configure (a p : Bool) (lc sc ss : BitVec 8) : (s.configure a p lc sc ss).dout = s.dout := rfl
@[simp] theorem State.din_configure (a p : Bool) (lc sc ss : BitVec 8) : (s.configure a p lc sc ss).din = s.din := rfl
@[simp] theorem State.response_configure (a p : Bool) (lc sc ss : BitVec 8) : (s.configure a p lc sc ss).response = s.response := rfl
@[simp] theorem State.requesters_configure (a p : Bool) (lc sc ss : BitVec 8) : (s.configure a p lc sc ss).requesters = s.requesters := rfl
@[simp] theorem State.schedule_configure (a p : Bool) (lc sc ss : BitVec 8) : (s.configure a p lc sc ss).schedule = s.schedule := rfl
@[simp] theorem State.draws_configure (a p : Bool) (lc sc ss : BitVec 8) : (s.configure a p lc sc ss).draws = s.draws := rfl

/-! `zeroStore` -/

@[simp] theorem State.params_zeroStore (n : Nat) : (s.zeroStore n).params = s.params := rfl
@[simp] theorem State.active_zeroStore (n : Nat) : (s.zeroStore n).active = s.active := rfl
@[simp] theorem State.prioEn_zeroStore (n : Nat) : (s.zeroStore n).prioEn = s.prioEn := rfl
@[simp] theorem State.laneCount_zeroStore (n : Nat) : (s.zeroStore n).laneCount = s.laneCount := rfl
@[simp] theorem State.slotCount_zeroStore (n : Nat) : (s.zeroStore n).slotCount = s.slotCount := rfl
@[simp] theorem State.slotSize_zeroStore (n : Nat) : (s.zeroStore n).slotSize = s.slotSize := rfl
@[simp] theorem State.widx_zeroStore (n : Nat) : (s.zeroStore n).widx = s.widx := rfl
@[simp] theorem State.ridx_zeroStore (n : Nat) : (s.zeroStore n).ridx = s.ridx := rfl
@[simp] theorem State.store_zeroStore (n : Nat) : (s.zeroStore n).store = s.store.zeroFill 0 n := rfl
@[simp] theorem State.dout_zeroStore (n : Nat) : (s.zeroStore n).dout = s.dout := rfl
@[simp] theorem State.din_zeroStore (n : Nat) : (s.zeroStore n).din = s.din := rfl
@[simp] theorem State.response_zeroStore (n : Nat) : (s.zeroStore n).response = s.response := rfl
@[simp] theorem State.requesters_zeroStore (n : Nat) : (s.zeroStore n).requesters = s.requesters := rfl
@[simp] theorem State.schedule_zeroStore (n : Nat) : (s.zeroStore n).schedule = s.schedule := rfl
@[simp] theorem State.draws_zeroStore (n : Nat) : (s.zeroStore n).draws = s.draws := rfl

/-! `resetWith` -/

@[simp] theorem State.params_resetWith (p : Params) (rs : List Requester) (es : List Event) (n : Nat) :
    (State.resetWith p rs es n).params = p := rfl
@[simp] theorem State.active_resetWith (p : Params) (rs : List Requester) (es : List Event) (n : Nat) :
    (State.resetWith p rs es n).active = false := rfl
@[simp] theorem State.prioEn_resetWith (p : Params) (rs : List Requester) (es : List Event) (n : Nat) :
    (State.resetWith p rs es n).prioEn = false := rfl
@[simp] theorem State.laneCount_resetWith (p : Params) (rs : List Requester) (es : List Event) (n : Nat) :
    (State.resetWith p rs es n).laneCount = 0 := rfl
@[simp] theorem State.slotCount_resetWith (p : Params) (rs : List Requester) (es : List Event) (n : Nat) :
    (State.resetWith p rs es n).slotCount = 0 := rfl
@[simp] theorem State.slotSize_resetWith (p : Params) (rs : List Requester) (es : List Event) (n : Nat) :
    (State.resetWith p rs es n).slotSize = 0 := rfl
@[simp] theorem State.widx_resetWith (p : Params) (rs : List Requester) (es : List Event) (n : Nat) :
    (State.resetWith p rs es n).widx = List.replicate p.maxLanes 0 := rfl
@[simp] theorem State.ridx_resetWith (p : Params) (rs : List Requester) (es : List Event) (n : Nat) :
    (State.resetWith p rs es n).ridx = List.replicate p.maxLanes 0 := rfl
@[simp] theorem State.store_resetWith (p : Params) (rs : List Requester) (es : List Event) (n : Nat) :
    (State.resetWith p rs es n).store = [] := rfl
@[simp] theorem State.dout_resetWith (p : Params) (rs : List Requester) (es : List Event) (n : Nat) :
    (State.resetWith p rs es n).dout = freeDoutVec n := rfl
@[simp] theorem State.din_resetWith (p : Params) (rs : List Requester) (es : List Event) (n : Nat) :
    (State.resetWith p rs es n).din = Vector.replicate dataWidth 0 := rfl
@[simp] theorem State.response_resetWith (p : Params) (rs : List Requester) (es : List Event) (n : Nat) :
    (State.resetWith p rs es n).response = none := rfl
@[simp] theorem State.requesters_resetWith (p : Params) (rs : List Requester) (es : List Event) (n : Nat) :
    (State.resetWith p rs es n).requesters = rs := rfl
@[simp] theorem State.schedule_resetWith (p : Params) (rs : List Requester) (es : List Event) (n : Nat) :
    (State.resetWith p rs es n).schedule = es := rfl
@[simp] theorem State.draws_resetWith (p : Params) (rs : List Requester) (es : List Event) (n : Nat) :
    (State.resetWith p rs es n).draws = n + 1 := rfl

end Fields

/-! Two states are equal when their fields are. -/

theorem State.ext_fields {s t : State} (h1 : s.params = t.params) (h2 : s.active = t.active)
    (h3 : s.prioEn = t.prioEn) (h4 : s.laneCount = t.laneCount) (h5 : s.slotCount = t.slotCount)
    (h6 : s.slotSize = t.slotSize) (h7 : s.widx = t.widx) (h8 : s.ridx = t.ridx) (h9 : s.store = t.store)
    (h10 : s.dout = t.dout) (h11 : s.din = t.din) (h12 : s.response = t.response)
    (h13 : s.requesters = t.requesters) (h14 : s.schedule = t.schedule) (h15 : s.draws = t.draws) : s = t := by
  cases s; cases t; simp_all

end Sys2Proof.Machine
end

