-- ==== Sys2Proof/Laws/Ops.lean ====
section
/-! SUPPORT. One lemma for each shared operation: the store inside the state, the answers, the lanes'
registers, the operands of a command and the data register. -/

namespace Sys2Proof.Machine

/-! ### The store inside the state -/

/-- What `memRead` can answer. -/
theorem memRead_eq_some {s : State} {a n : Nat} {bs : List Byte} :
    s.memRead a n = some bs ↔ a + n ≤ s.params.storeBytes ∧ bs = s.store.readBytes a n := by
  unfold State.memRead
  split <;> simp_all [eq_comm]

/-- What `memWrite` can answer. -/
theorem memWrite_eq_some {s t : State} {a : Nat} {bs : List Byte} :
    s.memWrite a bs = some t ↔
      a + bs.length ≤ s.params.storeBytes ∧ t = s.setStore (s.store.writeBytes a bs) := by
  unfold State.memWrite
  split <;> simp_all [eq_comm]

theorem memRead_of_le {s : State} {a n : Nat} (h : a + n ≤ s.params.storeBytes) :
    s.memRead a n = some (s.store.readBytes a n) := if_pos h

theorem memWrite_of_le {s : State} {a : Nat} {bs : List Byte} (h : a + bs.length ≤ s.params.storeBytes) :
    s.memWrite a bs = some (s.setStore (s.store.writeBytes a bs)) := if_pos h

/-! ### Answers -/

/-- An answer is a next state that differs in the response only. -/
theorem answer_eq_next {st : Status} {s t : State} :
    answer st s = .next t ↔ t = s.setResponse ⟨st, none⟩ := by
  simp [answer, eq_comm]

theorem answerWithDout_eq_next {st : Status} {s t : State} :
    answerWithDout st s = .next t ↔ t = s.setResponse ⟨st, some s.dout⟩ := by
  simp [answerWithDout, eq_comm]

/-! ### Index registers -/

/-- A register that exists holds the value `W` reads. -/
theorem widx_getElem? {s : State} {l : Nat} (h : l < s.widx.length) :
    ∃ w, s.widx[l]? = some w ∧ w.toNat = s.W l :=
  ⟨s.widx[l], by simp [h], by simp [State.W, List.getD_eq_getElem?_getD, h]⟩

theorem ridx_getElem? {s : State} {l : Nat} (h : l < s.ridx.length) :
    ∃ r, s.ridx[l]? = some r ∧ r.toNat = s.R l :=
  ⟨s.ridx[l], by simp [h], by simp [State.R, List.getD_eq_getElem?_getD, h]⟩

theorem W_of_getElem? {s : State} {l : Nat} {w : Index} (h : s.widx[l]? = some w) : s.W l = w.toNat := by
  simp [State.W, List.getD_eq_getElem?_getD, h]

theorem R_of_getElem? {s : State} {l : Nat} {r : Index} (h : s.ridx[l]? = some r) : s.R l = r.toNat := by
  simp [State.R, List.getD_eq_getElem?_getD, h]

theorem lt_length_of_getElem? {α : Type} {f : List α} {l : Nat} {x : α} (h : f[l]? = some x) : l < f.length :=
  (List.getElem?_eq_some_iff.1 h).1

/-- `WIDX[k]` after `WIDX[l] <- v`. -/
theorem W_setWidx {s : State} {l v : Nat} (hl : l < s.widx.length) (hv : v < 65536) (k : Nat) :
    (s.setWidx l v).W k = if k = l then v else s.W k := by
  unfold State.W
  rw [State.widx_setWidx, List.getD_eq_getElem?_getD, List.getD_eq_getElem?_getD, List.getElem?_set]
  by_cases h : l = k
  · subst h
    simp [hl, Nat.mod_eq_of_lt hv]
  · simp [h, Ne.symm h]

/-- `RIDX[k]` after `RIDX[l] <- v`. -/
theorem R_setRidx {s : State} {l v : Nat} (hl : l < s.ridx.length) (hv : v < 65536) (k : Nat) :
    (s.setRidx l v).R k = if k = l then v else s.R k := by
  unfold State.R
  rw [State.ridx_setRidx, List.getD_eq_getElem?_getD, List.getD_eq_getElem?_getD, List.getElem?_set]
  by_cases h : l = k
  · subst h
    simp [hl, Nat.mod_eq_of_lt hv]
  · simp [h, Ne.symm h]

section Unchanged
variable (s : State)

@[simp] theorem R_setWidx (l v k : Nat) : (s.setWidx l v).R k = s.R k := rfl
@[simp] theorem W_setRidx (l v k : Nat) : (s.setRidx l v).W k = s.W k := rfl
@[simp] theorem W_setStore (m : Memory) (k : Nat) : (s.setStore m).W k = s.W k := rfl
@[simp] theorem R_setStore (m : Memory) (k : Nat) : (s.setStore m).R k = s.R k := rfl
@[simp] theorem W_setDout (d : DataVec) (k : Nat) : (s.setDout d).W k = s.W k := rfl
@[simp] theorem R_setDout (d : DataVec) (k : Nat) : (s.setDout d).R k = s.R k := rfl
@[simp] theorem W_setDin (d : DataVec) (k : Nat) : (s.setDin d).W k = s.W k := rfl
@[simp] theorem R_setDin (d : DataVec) (k : Nat) : (s.setDin d).R k = s.R k := rfl
@[simp] theorem W_setResponse (r : Response) (k : Nat) : (s.setResponse r).W k = s.W k := rfl
@[simp] theorem R_setResponse (r : Response) (k : Nat) : (s.setResponse r).R k = s.R k := rfl
@[simp] theorem W_setRequesters (rs : List Requester) (k : Nat) : (s.setRequesters rs).W k = s.W k := rfl
@[simp] theorem R_setRequesters (rs : List Requester) (k : Nat) : (s.setRequesters rs).R k = s.R k := rfl
@[simp] theorem W_setSchedule (es : List Event) (k : Nat) : (s.setSchedule es).W k = s.W k := rfl
@[simp] theorem R_setSchedule (es : List Event) (k : Nat) : (s.setSchedule es).R k = s.R k := rfl
@[simp] theorem W_draw (k : Nat) : s.draw.W k = s.W k := rfl
@[simp] theorem R_draw (k : Nat) : s.draw.R k = s.R k := rfl
@[simp] theorem W_zeroStore (n k : Nat) : (s.zeroStore n).W k = s.W k := rfl
@[simp] theorem R_zeroStore (n k : Nat) : (s.zeroStore n).R k = s.R k := rfl

theorem getD_replicate_zero (n k : Nat) : ((List.replicate n (0 : Index)).getD k 0).toNat = 0 := by
  rw [List.getD_eq_getElem?_getD, List.getElem?_replicate]
  split <;> rfl

/-- REGISTER and UNREGISTER clear every index register (R27). -/
@[simp] theorem W_configure (a p : Bool) (lc sc ss : BitVec 8) (k : Nat) : (s.configure a p lc sc ss).W k = 0 :=
  getD_replicate_zero _ _

@[simp] theorem R_configure (a p : Bool) (lc sc ss : BitVec 8) (k : Nat) : (s.configure a p lc sc ss).R k = 0 :=
  getD_replicate_zero _ _

@[simp] theorem W_resetWith (p : Params) (rs : List Requester) (es : List Event) (n k : Nat) :
    (State.resetWith p rs es n).W k = 0 := getD_replicate_zero _ _

@[simp] theorem R_resetWith (p : Params) (rs : List Requester) (es : List Event) (n k : Nat) :
    (State.resetWith p rs es n).R k = 0 := getD_replicate_zero _ _

end Unchanged

/-- What `nextIndex` can answer. -/
theorem nextIndex_eq_some {s : State} {i nx : Nat} :
    s.nextIndex i = some nx ↔ 1 ≤ s.slotCount.toNat ∧ nx = (i + 1) % s.slotCount.toNat := by
  unfold State.nextIndex
  split
  · next h => simp [h]
  · next h =>
    have : s.slotCount.toNat ≠ 0 := fun e => h (BitVec.eq_of_toNat_eq (by simpa using e))
    simp only [Option.some.injEq]
    constructor
    · intro e; exact ⟨by omega, e.symm⟩
    · intro e; exact e.2.symm

theorem nextIndex_of_pos {s : State} (h : 1 ≤ s.slotCount.toNat) (i : Nat) :
    s.nextIndex i = some ((i + 1) % s.slotCount.toNat) := nextIndex_eq_some.2 ⟨h, rfl⟩

/-- An index below the slot count fits its 16 bits (R26). -/
theorem nextIndex_lt {s : State} {i nx : Nat} (h : s.nextIndex i = some nx) :
    nx < s.slotCount.toNat ∧ nx < 256 := by
  obtain ⟨h1, rfl⟩ := nextIndex_eq_some.1 h
  have := Nat.mod_lt (i + 1) (show s.slotCount.toNat > 0 by omega)
  have := s.slotCount.isLt
  exact ⟨by omega, by omega⟩

/-! ### Operands -/

/-- The lane a PUSH goes to (R121). -/
theorem selectLane_eq_some {s : State} {lane : BitVec 8} {l : Nat} :
    s.selectLane lane = some l ↔
      (s.prioEn = true ∧ lane.toNat < s.laneCount.toNat ∧ l = lane.toNat) ∨ (s.prioEn = false ∧ l = 0) := by
  unfold State.selectLane
  cases s.prioEn <;> simp [eq_comm]

theorem selectLane_eq_none {s : State} {lane : BitVec 8} :
    s.selectLane lane = none ↔ s.prioEn = true ∧ s.laneCount.toNat ≤ lane.toNat := by
  unfold State.selectLane
  cases s.prioEn <;> simp

/-- The payload has LEN bytes when LEN fits DIN. -/
theorem length_payload {s : State} {len : BitVec 16} (h : len.toNat ≤ dataWidth) :
    (s.payload len).length = len.toNat := by
  simp [State.payload]; omega

/-- Byte `k` of the payload is `DIN[k]`. -/
theorem getD_payload {s : State} {len : BitVec 16} {k : Nat} (hk : k < len.toNat) (hd : k < dataWidth) :
    (s.payload len).getD k 0 = s.din[k] := by
  simp [State.payload, List.getD_eq_getElem?_getD, hk, hd]

/-- Byte `k` of DOUT after `bs` is laid over it (R30): the new byte below `bs.length`, the old one
from there on. -/
theorem getElem_overlay (bs : List Byte) (d : DataVec) (k : Nat) (hk : k < dataWidth) :
    (overlay bs d)[k] = if h : k < bs.length then bs[k] else d[k] := by
  unfold overlay
  have e : ∀ h, (bs.take dataWidth ++ d.toList.drop bs.length)[k]'h = if h : k < bs.length then bs[k] else d[k] := by
    intro h
    rw [List.getElem_append]
    by_cases hb : k < bs.length
    · rw [dif_pos (by simp only [List.length_take]; omega), dif_pos hb, List.getElem_take]
    · rw [dif_neg (by simp only [List.length_take]; omega), dif_neg hb, List.getElem_drop]
      have : bs.length + (k - (bs.take dataWidth).length) = k := by simp only [List.length_take]; omega
      simp only [this]
      rfl
  exact e _

end Sys2Proof.Machine
end

