-- ==== Sys2Proof/Laws/Commands.lean ====
section
/-! SUPPORT. What each command and each part of one can do, said once: if it answers a next state,
then which; and when it does answer one. -/

namespace Sys2Proof.Machine

/-! ### Slots -/

/-- A slot of a configured lane lies inside the configured region (20_memory.md R51, R57). -/
theorem slot_in_region {s : State} {l i : Nat} (hl : l < s.laneCount.toNat) (hi : i < s.slotCount.toNat) :
    s.slotAddr l i + s.slotSize.toNat ≤ s.region := by
  unfold State.slotAddr State.region regionSize
  have h1 : l * s.slotCount.toNat + i + 1 ≤ s.laneCount.toNat * s.slotCount.toNat :=
    calc l * s.slotCount.toNat + i + 1 ≤ l * s.slotCount.toNat + s.slotCount.toNat := by omega
      _ = (l + 1) * s.slotCount.toNat := by ring
      _ ≤ s.laneCount.toNat * s.slotCount.toNat := Nat.mul_le_mul_right _ hl
  calc (l * s.slotCount.toNat + i) * s.slotSize.toNat + s.slotSize.toNat
      = (l * s.slotCount.toNat + i + 1) * s.slotSize.toNat := by ring
    _ ≤ s.laneCount.toNat * s.slotCount.toNat * s.slotSize.toNat := Nat.mul_le_mul_right _ h1

/-- The slot address reads the geometry only. -/
theorem slotAddr_congr {s t : State} (h1 : t.slotCount = s.slotCount) (h2 : t.slotSize = s.slotSize) (l i : Nat) :
    t.slotAddr l i = s.slotAddr l i := by
  simp [State.slotAddr, h1, h2]

/-! ### PUSH -/

/-- The state a PUSH on lane `l` that is not full leaves (R121). -/
def pushedState (l : Nat) (len : BitVec 16) (s : State) : State :=
  ((s.setStore (s.store.writeBytes (s.slotAddr l (s.W l)) (s.payload len))).setWidx l
    ((s.W l + 1) % s.slotCount.toNat)).setResponse ⟨.ok, none⟩

/-- WIDX after a PUSH on lane `l` that was not full (R121). -/
theorem W_pushedState {l : Nat} {len : BitVec 16} {s : State} (hl : l < s.widx.length)
    (hc : 1 ≤ s.slotCount.toNat) (k : Nat) :
    (pushedState l len s).W k = if k = l then (s.W l + 1) % s.slotCount.toNat else s.W k := by
  have h1 := Nat.mod_lt (s.W l + 1) (show s.slotCount.toNat > 0 by omega)
  have h2 := s.slotCount.isLt
  unfold pushedState
  rw [W_setResponse, W_setWidx (by simpa using hl) (by omega), W_setStore]

@[simp] theorem R_pushedState (l : Nat) (len : BitVec 16) (s : State) (k : Nat) :
    (pushedState l len s).R k = s.R k := rfl

theorem store_pushedState (l : Nat) (len : BitVec 16) (s : State) :
    (pushedState l len s).store = s.store.writeBytes (s.slotAddr l (s.W l)) (s.payload len) := rfl

theorem laneFull_iff {s : State} {l : Nat} : s.laneFull l = true ↔ (s.W l + 1) % s.slotCount.toNat = s.R l := by
  simp [State.laneFull]

theorem laneEmpty_iff {s : State} {l : Nat} : s.laneEmpty l = true ↔ s.W l = s.R l := by
  simp [State.laneEmpty]

/-- PUSH on lane `l`, as equations: what it answers where its registers, modulus and slot exist. -/
theorem pushLane_eq {l : Nat} {len : BitVec 16} {s : State} (hw : l < s.widx.length) (hr : l < s.ridx.length)
    (hc : 1 ≤ s.slotCount.toNat)
    (hm : s.slotAddr l (s.W l) + (s.payload len).length ≤ s.params.storeBytes) :
    pushLane l len s =
      if s.laneFull l then answer .outOfMemory s else .next (pushedState l len s) := by
  obtain ⟨w, ew, tw⟩ := widx_getElem? hw
  obtain ⟨r, er, tr⟩ := ridx_getElem? hr
  unfold pushLane
  rw [ew, er]
  simp only [tw, tr, nextIndex_of_pos hc, memWrite_of_le hm, laneFull_iff]
  rfl

/-- All a PUSH on lane `l` can do when it answers a next state. -/
theorem pushLane_next {l : Nat} {len : BitVec 16} {s t : State} (h : pushLane l len s = .next t) :
    l < s.widx.length ∧ l < s.ridx.length ∧ 1 ≤ s.slotCount.toNat ∧
      ((s.laneFull l = true ∧ t = s.setResponse ⟨.outOfMemory, none⟩) ∨
       (s.laneFull l = false ∧ s.slotAddr l (s.W l) + (s.payload len).length ≤ s.params.storeBytes ∧
        t = pushedState l len s)) := by
  unfold pushLane at h
  split at h
  · next w r ew er =>
    refine ⟨lt_length_of_getElem? ew, lt_length_of_getElem? er, ?_⟩
    split at h
    · cases h
    · next nx hn =>
      obtain ⟨h1, rfl⟩ := nextIndex_eq_some.1 hn
      refine ⟨h1, ?_⟩
      rw [← W_of_getElem? ew, ← R_of_getElem? er] at h
      split at h
      · next hf => exact .inl ⟨laneFull_iff.2 hf, answer_eq_next.1 h⟩
      · next hf =>
        split at h
        · cases h
        · next s1 hm =>
          obtain ⟨hb, rfl⟩ := memWrite_eq_some.1 hm
          exact .inr ⟨by simpa [State.laneFull] using hf, hb, answer_eq_next.1 h⟩
  · cases h

/-- All PUSH can do when it answers a next state. -/
theorem execPush_next {lane : BitVec 8} {len : BitVec 16} {s t : State} (h : execPush lane len s = .next t) :
    ((s.active = false ∨ s.slotSize.toNat < len.toNat ∨ (s.prioEn = true ∧ s.laneCount.toNat ≤ lane.toNat)) ∧
      t = s.setResponse ⟨.invalidParameter, none⟩) ∨
    ∃ l, s.active = true ∧ len.toNat ≤ s.slotSize.toNat ∧ s.selectLane lane = some l ∧
      pushLane l len s = .next t := by
  unfold execPush at h
  split at h
  · next ha =>
    split at h
    · next hl => exact .inl ⟨.inr (.inl hl), answer_eq_next.1 h⟩
    · next hl =>
      split at h
      · next hs => exact .inl ⟨.inr (.inr (selectLane_eq_none.1 hs)), answer_eq_next.1 h⟩
      · next l hs => exact .inr ⟨l, ha, by omega, hs, h⟩
  · next ha => exact .inl ⟨.inl (by simpa using ha), answer_eq_next.1 h⟩

/-- PUSH passes its three checks to lane `l`. -/
theorem execPush_eq {lane : BitVec 8} {len : BitVec 16} {s : State} {l : Nat} (ha : s.active = true)
    (hl : len.toNat ≤ s.slotSize.toNat) (hs : s.selectLane lane = some l) :
    execPush lane len s = pushLane l len s := by
  unfold execPush
  rw [if_pos ha, if_neg (by omega), hs]

/-! ### POP -/

/-- The state serving slot `r` of lane `l` leaves (R141, R151). -/
def servedState (l r : Nat) (s : State) : State :=
  let d := overlay (s.store.readBytes (s.slotAddr l r) s.slotSize.toNat) s.dout
  ((s.setDout d).setRidx l ((r + 1) % s.slotCount.toNat)).setResponse ⟨.ok, some d⟩

/-- RIDX after slot `r` of lane `l` is served (R141, R151). -/
theorem R_servedState {l r : Nat} {s : State} (hl : l < s.ridx.length) (hc : 1 ≤ s.slotCount.toNat) (k : Nat) :
    (servedState l r s).R k = if k = l then (r + 1) % s.slotCount.toNat else s.R k := by
  have h1 := Nat.mod_lt (r + 1) (show s.slotCount.toNat > 0 by omega)
  have h2 := s.slotCount.isLt
  unfold servedState
  rw [R_setResponse, R_setRidx (by simpa using hl) (by omega), R_setDout]

@[simp] theorem W_servedState (l r : Nat) (s : State) (k : Nat) : (servedState l r s).W k = s.W k := by
  simp only [servedState, W_setResponse, W_setRidx, W_setDout]

@[simp] theorem store_servedState (l r : Nat) (s : State) : (servedState l r s).store = s.store := by
  simp only [servedState, State.store_setResponse, State.store_setRidx, State.store_setDout]

/-- DOUT after slot `r` of lane `l` is served: the slot's bytes, then what DOUT held (R30). -/
theorem dout_servedState (l r : Nat) (s : State) (k : Nat) (hk : k < dataWidth) :
    (servedState l r s).dout[k] =
      if k < s.slotSize.toNat then s.store.read (s.slotAddr l r + k) else s.dout[k] := by
  show (overlay _ s.dout)[k] = _
  rw [getElem_overlay]
  simp only [Memory.length_readBytes, Memory.getElem_readBytes, dite_eq_ite]

theorem serveSlot_eq {l r : Nat} {s : State} (hc : 1 ≤ s.slotCount.toNat)
    (hm : s.slotAddr l r + s.slotSize.toNat ≤ s.params.storeBytes) :
    serveSlot l r s = .next (servedState l r s) := by
  unfold serveSlot
  rw [nextIndex_of_pos hc]
  simp only [memRead_of_le hm]
  rfl

theorem serveSlot_next {l r : Nat} {s t : State} (h : serveSlot l r s = .next t) :
    1 ≤ s.slotCount.toNat ∧ s.slotAddr l r + s.slotSize.toNat ≤ s.params.storeBytes ∧ t = servedState l r s := by
  unfold serveSlot at h
  split at h
  · cases h
  · next nx hn =>
    obtain ⟨h1, rfl⟩ := nextIndex_eq_some.1 hn
    split at h
    · cases h
    · next bs hm =>
      obtain ⟨hb, rfl⟩ := memRead_eq_some.1 hm
      exact ⟨h1, hb, answerWithDout_eq_next.1 h⟩

/-- Single-lane POP, as an equation, where lane 0's registers and the modulus exist. -/
theorem popSingle_eq {s : State} (hw : 0 < s.widx.length) (hr : 0 < s.ridx.length) (hc : 1 ≤ s.slotCount.toNat) :
    popSingle s =
      if singleEmptyTest s.params.popEmptyCheck (s.R 0) (s.W 0) ((s.R 0 + 1) % s.slotCount.toNat) then
        answerWithDout .noData s
      else serveSlot 0 (s.R 0) s := by
  obtain ⟨w, ew, tw⟩ := widx_getElem? hw
  obtain ⟨r, er, tr⟩ := ridx_getElem? hr
  unfold popSingle
  rw [ew, er]
  simp only [tw, tr, nextIndex_of_pos hc]

theorem popSingle_next {s t : State} (h : popSingle s = .next t) :
    0 < s.widx.length ∧ 0 < s.ridx.length ∧ 1 ≤ s.slotCount.toNat ∧
      ((singleEmptyTest s.params.popEmptyCheck (s.R 0) (s.W 0) ((s.R 0 + 1) % s.slotCount.toNat) = true ∧
        t = s.setResponse ⟨.noData, some s.dout⟩) ∨
       (singleEmptyTest s.params.popEmptyCheck (s.R 0) (s.W 0) ((s.R 0 + 1) % s.slotCount.toNat) = false ∧
        serveSlot 0 (s.R 0) s = .next t)) := by
  by_cases hw : 0 < s.widx.length
  · by_cases hr : 0 < s.ridx.length
    · by_cases hc : 1 ≤ s.slotCount.toNat
      · rw [popSingle_eq hw hr hc] at h
        refine ⟨hw, hr, hc, ?_⟩
        split at h
        · next he => exact .inl ⟨he, answerWithDout_eq_next.1 h⟩
        · next he => exact .inr ⟨by simpa using he, h⟩
      · unfold popSingle at h
        have : ∀ i, s.nextIndex i = none := fun i => by
          cases hn : s.nextIndex i with
          | none => rfl
          | some nx => exact absurd (nextIndex_eq_some.1 hn).1 hc
        split at h <;> simp_all
    · unfold popSingle at h
      rw [List.getElem?_eq_none (show s.ridx.length ≤ 0 by omega)] at h
      split at h <;> simp_all
  · unfold popSingle at h
    rw [List.getElem?_eq_none (show s.widx.length ≤ 0 by omega)] at h
    split at h <;> simp_all

/-- The scanner finds a lane: it is in range, not empty, and every lane before it is empty (R150). -/
theorem scanLanes_some {s : State} {n l k : Nat} (h : scanLanes s n l = .ok (some k)) :
    l ≤ k ∧ k < l + n ∧ k < s.widx.length ∧ k < s.ridx.length ∧ s.laneEmpty k = false ∧
      ∀ j, l ≤ j → j < k → s.laneEmpty j = true := by
  induction n generalizing l with
  | zero => simp [scanLanes] at h
  | succ n ih =>
    unfold scanLanes at h
    split at h
    · next w r ew er =>
      have eW := W_of_getElem? ew
      have eR := R_of_getElem? er
      split at h
      · next hne =>
        simp only [Except.ok.injEq, Option.some.injEq] at h
        subst h
        refine ⟨le_refl _, by omega, lt_length_of_getElem? ew, lt_length_of_getElem? er, ?_, ?_⟩
        · simp only [State.laneEmpty, eW, eR, beq_eq_false_iff_ne, ne_eq]
          exact fun e => hne (BitVec.eq_of_toNat_eq e.symm)
        · intro j h1 h2; omega
      · next he =>
        obtain ⟨h1, h2, h3, h4, h5, h6⟩ := ih h
        refine ⟨by omega, by omega, h3, h4, h5, ?_⟩
        intro j hj hk
        by_cases hjl : j = l
        · subst hjl
          simp only [ne_eq, not_not] at he
          simp [State.laneEmpty, eW, eR, he]
        · exact h6 j (by omega) hk
    · cases h

/-- The scanner finds no lane: every lane it looked at is empty (R151). -/
theorem scanLanes_none {s : State} {n l : Nat} (h : scanLanes s n l = .ok none) :
    ∀ j, l ≤ j → j < l + n → s.laneEmpty j = true := by
  induction n generalizing l with
  | zero => intro j h1 h2; omega
  | succ n ih =>
    unfold scanLanes at h
    split at h
    · next w r ew er =>
      split at h
      · cases h
      · next he =>
        intro j h1 h2
        by_cases hjl : j = l
        · subst hjl
          simp only [ne_eq, not_not] at he
          simp [State.laneEmpty, W_of_getElem? ew, R_of_getElem? er, he]
        · exact ih h j (by omega) (by omega)
    · cases h

/-- The scanner answers where the registers of its lanes exist. -/
theorem scanLanes_ok {s : State} {n l : Nat} (hw : l + n ≤ s.widx.length) (hr : l + n ≤ s.ridx.length) :
    ∃ o, scanLanes s n l = .ok o := by
  induction n generalizing l with
  | zero => exact ⟨none, rfl⟩
  | succ n ih =>
    obtain ⟨w, ew, -⟩ := widx_getElem? (show l < s.widx.length by omega)
    obtain ⟨r, er, -⟩ := ridx_getElem? (show l < s.ridx.length by omega)
    unfold scanLanes
    rw [ew, er]
    simp only
    split
    · exact ⟨_, rfl⟩
    · exact ih (by omega) (by omega)

/-- The scanner finds the least lane that is not empty. -/
theorem scanLanes_first {s : State} {n k : Nat} (hw : n ≤ s.widx.length) (hr : n ≤ s.ridx.length) (hk : k < n)
    (hne : s.laneEmpty k = false) (hlt : ∀ j < k, s.laneEmpty j = true) : scanLanes s n 0 = .ok (some k) := by
  obtain ⟨o, ho⟩ := scanLanes_ok (s := s) (n := n) (l := 0) (by omega) (by omega)
  cases o with
  | none =>
    have := scanLanes_none ho k (by omega) (by omega)
    simp [hne] at this
  | some k' =>
    obtain ⟨-, h2, -, -, h5, h6⟩ := scanLanes_some ho
    rcases Nat.lt_trichotomy k k' with h | h | h
    · have := h6 k (by omega) h; simp [hne] at this
    · subst h; exact ho
    · have := hlt k' h; simp [h5] at this

/-- The scanner finds nothing where every lane is empty. -/
theorem scanLanes_all_empty {s : State} {n : Nat} (hw : n ≤ s.widx.length) (hr : n ≤ s.ridx.length)
    (he : ∀ j < n, s.laneEmpty j = true) : scanLanes s n 0 = .ok none := by
  obtain ⟨o, ho⟩ := scanLanes_ok (s := s) (n := n) (l := 0) (by omega) (by omega)
  cases o with
  | none => exact ho
  | some k =>
    obtain ⟨-, h2, -, -, h5, -⟩ := scanLanes_some ho
    have := he k (by omega); simp [h5] at this

/-- The answer of a priority-mode POP that finds every lane empty (R151). -/
def emptyPrioStatus (p : Params) : Status :=
  match p.prioEmptyStatus with
  | .noData => .noData
  | .legacyOk => .ok

/-- All a priority-mode POP can do when it answers a next state. -/
theorem popPriority_next {s t : State} (h : popPriority s = .next t) :
    ((∀ j < s.laneCount.toNat, s.laneEmpty j = true) ∧
      t = s.setResponse ⟨emptyPrioStatus s.params, some s.dout⟩) ∨
    ∃ l, l < s.laneCount.toNat ∧ l < s.widx.length ∧ l < s.ridx.length ∧ s.laneEmpty l = false ∧
      (∀ j < l, s.laneEmpty j = true) ∧ serveSlot l (s.R l) s = .next t := by
  unfold popPriority at h
  split at h
  · cases h
  · next l hs =>
    obtain ⟨-, h2, h3, h4, h5, h6⟩ := scanLanes_some hs
    exact .inr ⟨l, by omega, h3, h4, h5, fun j hj => h6 j (by omega) hj, h⟩
  · next hs =>
    refine .inl ⟨fun j hj => scanLanes_none hs j (by omega) (by omega), ?_⟩
    unfold emptyPrioStatus
    split at h <;> simp_all [answerWithDout_eq_next]

/-- A priority-mode POP serves the least lane that is not empty. -/
theorem popPriority_serves {s : State} {l : Nat} (hw : s.laneCount.toNat ≤ s.widx.length)
    (hr : s.laneCount.toNat ≤ s.ridx.length) (hl : l < s.laneCount.toNat) (hne : s.laneEmpty l = false)
    (hlt : ∀ j < l, s.laneEmpty j = true) : popPriority s = serveSlot l (s.R l) s := by
  unfold popPriority
  rw [scanLanes_first hw hr hl hne hlt]

/-- A priority-mode POP that finds every lane empty writes nothing. -/
theorem popPriority_all_empty {s : State} (hw : s.laneCount.toNat ≤ s.widx.length)
    (hr : s.laneCount.toNat ≤ s.ridx.length) (he : ∀ j < s.laneCount.toNat, s.laneEmpty j = true) :
    popPriority s = answerWithDout (emptyPrioStatus s.params) s := by
  unfold popPriority emptyPrioStatus
  rw [scanLanes_all_empty hw hr he]
  cases s.params.prioEmptyStatus <;> rfl

/-- All POP can do when it answers a next state. -/
theorem execPop_next {s t : State} (h : execPop s = .next t) :
    (s.active = false ∧ t = s.setResponse ⟨.invalidParameter, some s.dout⟩) ∨
    (s.active = true ∧ s.prioEn = false ∧ popSingle s = .next t) ∨
    (s.active = true ∧ s.prioEn = true ∧ popPriority s = .next t) := by
  unfold execPop at h
  split at h
  · next ha =>
    split at h
    · next hp => exact .inr (.inr ⟨ha, hp, h⟩)
    · next hp => exact .inr (.inl ⟨ha, by simpa using hp, h⟩)
  · next ha => exact .inl ⟨by simpa using ha, answerWithDout_eq_next.1 h⟩

/-! ### REGISTER and UNREGISTER -/

/-- The state a successful REGISTER leaves (R100). -/
def registeredState (pe : Bool) (level scount ssize : BitVec 8) (s : State) : State :=
  ((s.configure true pe (requestedLanes pe level) scount ssize).zeroStore
    (regionSize (requestedLanes pe level) scount ssize)).setResponse ⟨.ok, none⟩

/-- All REGISTER can do: it always answers a next state. -/
theorem execRegister_cases (pe : Bool) (level scount ssize : BitVec 8) (s : State) :
    ((s.active = true ∨ (pe = true ∧ level = 0) ∨ scount = 0 ∨ ssize = 0) ∧
      execRegister pe level scount ssize s = .next (s.setResponse ⟨.invalidParameter, none⟩)) ∨
    (s.active = false ∧ ¬(pe = true ∧ level = 0) ∧ scount ≠ 0 ∧ ssize ≠ 0 ∧
      (s.params.maxLanes < (requestedLanes pe level).toNat ∨
        s.params.storeBytes < regionSize (requestedLanes pe level) scount ssize) ∧
      execRegister pe level scount ssize s = .next (s.setResponse ⟨.outOfMemory, none⟩)) ∨
    (s.active = false ∧ ¬(pe = true ∧ level = 0) ∧ scount ≠ 0 ∧ ssize ≠ 0 ∧
      (requestedLanes pe level).toNat ≤ s.params.maxLanes ∧
      regionSize (requestedLanes pe level) scount ssize ≤ s.params.storeBytes ∧
      execRegister pe level scount ssize s = .next (registeredState pe level scount ssize s)) := by
  unfold execRegister
  by_cases h1 : s.active = true
  · rw [if_pos h1]; exact .inl ⟨.inl h1, rfl⟩
  rw [if_neg h1]
  by_cases h2 : (pe && level == 0) = true
  · rw [if_pos h2]; exact .inl ⟨.inr (.inl (by simpa using h2)), rfl⟩
  rw [if_neg h2]
  by_cases h3 : (scount == 0 || ssize == 0) = true
  · rw [if_pos h3]; exact .inl ⟨.inr (.inr (by simpa using h3)), rfl⟩
  rw [if_neg h3]
  have h1' : s.active = false := by simpa using h1
  have h2' : ¬(pe = true ∧ level = 0) := by simpa using h2
  have h3' : scount ≠ 0 ∧ ssize ≠ 0 := by simpa using h3
  right
  by_cases h4 : s.params.maxLanes < (requestedLanes pe level).toNat
  · rw [if_pos h4]; exact .inl ⟨h1', h2', h3'.1, h3'.2, .inl h4, rfl⟩
  rw [if_neg h4]
  by_cases h5 : s.params.storeBytes < regionSize (requestedLanes pe level) scount ssize
  · rw [if_pos h5]; exact .inl ⟨h1', h2', h3'.1, h3'.2, .inr h5, rfl⟩
  rw [if_neg h5]
  exact .inr ⟨h1', h2', h3'.1, h3'.2, by omega, by omega, rfl⟩

/-- The state UNREGISTER leaves (R110). -/
def unregisteredState (s : State) : State :=
  ((s.configure false false 0 0 0).zeroStore s.params.storeBytes).setResponse ⟨.ok, none⟩

/-- UNREGISTER always answers that state. -/
theorem execUnregister_eq (s : State) : execUnregister s = .next (unregisteredState s) := rfl

end Sys2Proof.Machine
end

