-- ==== Sys2Proof/Laws/Decode.lean ====
section
/-! SUPPORT. The decoder, row by row (30_encoding.md R89). -/

namespace Sys2Proof

theorem matches_iff (r : OpcodeRow) (w : Word) : r.matches w = true ↔ w &&& r.mask = r.pattern := by
  simp [OpcodeRow.matches]

/-- Bit `j` of a field is bit `lo + j` of the word. -/
theorem getLsbD_bits (w : Word) (lo n j : Nat) : (bits w lo n).getLsbD j = (decide (j < n) && w.getLsbD (lo + j)) := by
  simp [bits]

/-- A field as a number: the word divided by `2 ^ lo`, modulo `2 ^ n` (R9). -/
theorem toNat_bits (w : Word) (lo n : Nat) : (bits w lo n).toNat = w.toNat / 2 ^ lo % 2 ^ n := by
  simp [bits, Nat.shiftRight_eq_div_pow]

/-- The one-bit field PE as a number (R86). -/
theorem toNat_pe (w : Word) : (w.getLsbD 4).toNat = w.toNat / 2 ^ 4 % 2 := by
  rw [BitVec.getLsbD, Nat.testBit_eq_decide_div_mod_eq]
  rcases Nat.mod_two_eq_zero_or_one (w.toNat / 2 ^ 4) with h | h <;> rw [h] <;> rfl

/-! The rows and the encodings as arithmetic on the word's number, for omega. -/

theorem toNat_and (w m : Word) : (w &&& m).toNat = w.toNat &&& m.toNat := by simp

/-- The row of REGISTER (R89) by the word's number. -/
theorem register_row_iff (w : Word) :
    w &&& 0x000000EF = 0x00000001 ↔ w.toNat % 16 = 1 ∧ w.toNat / 32 % 8 = 0 := by
  have small : ∀ m < 256, (m &&& 239 = 1 ↔ m % 16 = 1 ∧ m / 32 % 8 = 0) := by decide +kernel
  have cut : w.toNat &&& 239 = w.toNat % 256 &&& 239 := by
    rw [show w.toNat % 256 = w.toNat &&& 255 from (Nat.and_two_pow_sub_one_eq_mod w.toNat 8).symm, Nat.and_assoc]
    rfl
  rw [← BitVec.toNat_inj, toNat_and]
  show w.toNat &&& 239 = 1 ↔ _
  rw [cut, small _ (Nat.mod_lt _ (by decide))]
  omega

/-- The row of PUSH (R89) by the word's number. -/
theorem push_row_iff (w : Word) : w &&& 0x000000FF = 0x00000003 ↔ w.toNat % 256 = 3 := by
  rw [← BitVec.toNat_inj, toNat_and]
  show w.toNat &&& 255 = 3 ↔ _
  rw [show w.toNat &&& 255 = w.toNat % 256 from Nat.and_two_pow_sub_one_eq_mod w.toNat 8]

/-- The number of REGISTER's word (R93). -/
theorem toNat_encode_register (pe : Bool) (level scount ssize : BitVec 8) :
    (encode (.register pe level scount ssize)).toNat =
      ssize.toNat * 2 ^ 24 + scount.toNat * 2 ^ 16 + level.toNat * 2 ^ 8 + pe.toNat * 2 ^ 4 + 1 := by
  have h1 := level.isLt
  have h2 := scount.isLt
  simp only [encode, BitVec.toNat_append, BitVec.toNat_ofNat, BitVec.toNat_ofBool]
  rw [← Nat.shiftLeft_add_eq_or_of_lt (by decide), ← Nat.shiftLeft_add_eq_or_of_lt (by cases pe <;> decide),
    ← Nat.shiftLeft_add_eq_or_of_lt (by decide), ← Nat.shiftLeft_add_eq_or_of_lt h1,
    ← Nat.shiftLeft_add_eq_or_of_lt h2]
  simp only [Nat.shiftLeft_eq]
  omega

/-- The number of PUSH's word (R93). -/
theorem toNat_encode_push (lane : BitVec 8) (len : BitVec 16) :
    (encode (.push lane len)).toNat = len.toNat * 2 ^ 16 + lane.toNat * 2 ^ 8 + 3 := by
  simp only [encode, BitVec.toNat_append, BitVec.toNat_ofNat]
  rw [← Nat.shiftLeft_add_eq_or_of_lt (by decide), ← Nat.shiftLeft_add_eq_or_of_lt (by decide),
    ← Nat.shiftLeft_add_eq_or_of_lt lane.isLt]
  simp only [Nat.shiftLeft_eq]
  omega

/-- All the decoder can answer. -/
theorem decode_cases (w : Word) :
    (w &&& 0x000000EF = 0x00000001 ∧
      decode w = .ok (.register (w.getLsbD 4) (bits w 8 8) (bits w 16 8) (bits w 24 8))) ∨
    (w = 0x00000002 ∧ decode w = .ok .unregister) ∨
    (w &&& 0x000000FF = 0x00000003 ∧ decode w = .ok (.push (bits w 8 8) (bits w 16 16))) ∨
    (w = 0x00000004 ∧ decode w = .ok .pop) ∨
    (w &&& 0x000000EF ≠ 0x00000001 ∧ w ≠ 0x00000002 ∧ w &&& 0x000000FF ≠ 0x00000003 ∧ w ≠ 0x00000004 ∧
      decode w = .error (if opcodeNamed (bits w 0 4) then .reservedBitSet (bits w 0 4) else .reservedOpcode (bits w 0 4))) := by
  have full : ∀ v : Word, v &&& 0xFFFFFFFF = v := fun v => by
    have : (0xFFFFFFFF : Word) = BitVec.allOnes 32 := by decide
    rw [this, BitVec.and_allOnes]
  unfold decode
  by_cases h1 : rowRegister.matches w = true
  · rw [if_pos h1]; exact .inl ⟨(matches_iff _ _).1 h1, rfl⟩
  rw [if_neg h1]
  have h1' : w &&& 0x000000EF ≠ 0x00000001 := fun e => h1 ((matches_iff _ _).2 e)
  by_cases h2 : rowUnregister.matches w = true
  · rw [if_pos h2]
    exact .inr (.inl ⟨(full w).symm.trans ((matches_iff _ _).1 h2), rfl⟩)
  rw [if_neg h2]
  have h2' : w ≠ 0x00000002 := fun e => h2 ((matches_iff _ _).2 ((full w).trans e))
  by_cases h3 : rowPush.matches w = true
  · rw [if_pos h3]; exact .inr (.inr (.inl ⟨(matches_iff _ _).1 h3, rfl⟩))
  rw [if_neg h3]
  have h3' : w &&& 0x000000FF ≠ 0x00000003 := fun e => h3 ((matches_iff _ _).2 e)
  by_cases h4 : rowPop.matches w = true
  · rw [if_pos h4]
    exact .inr (.inr (.inr (.inl ⟨(full w).symm.trans ((matches_iff _ _).1 h4), rfl⟩)))
  rw [if_neg h4]
  have h4' : w ≠ 0x00000004 := fun e => h4 ((matches_iff _ _).2 ((full w).trans e))
  refine .inr (.inr (.inr (.inr ⟨h1', h2', h3', h4', ?_⟩)))
  split <;> rfl

end Sys2Proof
end

