-- ==== Sys2Proof/Laws/Port.lean ====
section
/-! SUPPORT. What the serializer, the reset input and one step can do, said once. -/

namespace Sys2Proof.Machine

section Fields
variable (k : Nat) (q : Request) (s : State)

@[simp] theorem params_acceptRequest : (acceptRequest k q s).params = s.params := rfl
@[simp] theorem active_acceptRequest : (acceptRequest k q s).active = s.active := rfl
@[simp] theorem prioEn_acceptRequest : (acceptRequest k q s).prioEn = s.prioEn := rfl
@[simp] theorem laneCount_acceptRequest : (acceptRequest k q s).laneCount = s.laneCount := rfl
@[simp] theorem slotCount_acceptRequest : (acceptRequest k q s).slotCount = s.slotCount := rfl
@[simp] theorem slotSize_acceptRequest : (acceptRequest k q s).slotSize = s.slotSize := rfl
@[simp] theorem widx_acceptRequest : (acceptRequest k q s).widx = s.widx := rfl
@[simp] theorem ridx_acceptRequest : (acceptRequest k q s).ridx = s.ridx := rfl
@[simp] theorem store_acceptRequest : (acceptRequest k q s).store = s.store := rfl
@[simp] theorem dout_acceptRequest : (acceptRequest k q s).dout = s.dout := rfl
@[simp] theorem din_acceptRequest : (acceptRequest k q s).din = q.din := rfl
@[simp] theorem response_acceptRequest : (acceptRequest k q s).response = s.response := rfl
@[simp] theorem requesters_acceptRequest : (acceptRequest k q s).requesters = takeIssued s.requesters k := rfl
@[simp] theorem schedule_acceptRequest : (acceptRequest k q s).schedule = s.schedule := rfl
@[simp] theorem draws_acceptRequest : (acceptRequest k q s).draws = s.draws := rfl

/-- A delivery changes the requesters only. -/
theorem deliver_eq : ∃ rs, deliver k s = s.setRequesters rs := by
  unfold deliver
  split
  · exact ⟨s.requesters, rfl⟩
  · exact ⟨_, rfl⟩

theorem deliver_some {r : Response} (h : s.response = some r) :
    deliver k s =
      s.setRequesters (s.requesters.modify k fun q => { q with received := r :: q.received }) := by
  unfold deliver
  rw [h]

end Fields

/-- A requester with a command outstanding exists and has it at the head of its queue. -/
theorem outstanding_eq_some {s : State} {k : Nat} {q : Request} :
    s.outstanding k = some q ↔ ∃ rest rx, s.requesters[k]? = some ⟨q :: rest, rx⟩ := by
  unfold State.outstanding
  constructor
  · intro h
    obtain ⟨⟨issue, rx⟩, hr, hq⟩ := Option.bind_eq_some_iff.1 h
    cases issue with
    | nil => simp at hq
    | cons q' rest =>
      simp only [List.head?_cons, Option.some.injEq] at hq
      exact ⟨rest, rx, by rw [hr, hq]⟩
  · rintro ⟨rest, rx, h⟩
    simp [h]

theorem mem_waiting {s : State} {k : Nat} : k ∈ s.waiting ↔ (s.outstanding k).isSome = true := by
  unfold State.waiting
  rw [List.mem_filter, List.mem_range]
  refine ⟨fun h => h.2, fun h => ⟨?_, h⟩⟩
  obtain ⟨q, hq⟩ := Option.isSome_iff_exists.1 h
  obtain ⟨rest, rx, hr⟩ := outstanding_eq_some.1 hq
  exact lt_length_of_getElem? hr

/-- All the serializer can choose. A requester it serves has a command outstanding. -/
theorem arbitrate_cases (s : State) :
    (arbitrate s = (.idle, s) ∧ s.schedule = [] ∧ s.waiting = []) ∨
    (∃ es k, arbitrate s = (.idle, s.setSchedule es) ∧ s.schedule = .grant k :: es ∧ s.outstanding k = none) ∨
    (∃ es, arbitrate s = (.reset, s.setSchedule es) ∧ s.schedule = .reset :: es) ∨
    (∃ es k q, arbitrate s = (.serve k, s.setSchedule es) ∧ s.schedule = .grant k :: es ∧ s.outstanding k = some q) ∨
    (∃ k q, (arbitrate s = (.serve k, s) ∨ arbitrate s = (.serve k, s.draw)) ∧ s.schedule = [] ∧
      s.outstanding k = some q) := by
  have some_of_mem : ∀ k, k ∈ s.waiting → ∃ q, s.outstanding k = some q := fun k h =>
    Option.isSome_iff_exists.1 (mem_waiting.1 h)
  unfold arbitrate
  split
  · next es he => exact .inr (.inr (.inl ⟨es, rfl, he⟩))
  · next k es he =>
    cases ho : s.outstanding k with
    | none => exact .inr (.inl ⟨es, k, rfl, he, ho⟩)
    | some q => exact .inr (.inr (.inr (.inl ⟨es, k, q, rfl, he, ho⟩)))
  · next he =>
    split
    · next hw => exact .inl ⟨rfl, he, hw⟩
    · next k hw =>
      obtain ⟨q, hq⟩ := some_of_mem k (by simp [hw])
      exact .inr (.inr (.inr (.inr ⟨k, q, .inl rfl, he, hq⟩)))
    · next k ks hne hw =>
      have hlt : Config.arbiter s.draws % (ks.length + 1) < (k :: ks).length := by
        simpa using Nat.mod_lt _ (Nat.succ_pos _)
      have hm : (k :: ks).getD (Config.arbiter s.draws % (ks.length + 1)) k ∈ s.waiting := by
        rw [hw, List.getD_eq_getElem?_getD, List.getElem?_eq_getElem hlt]
        exact List.getElem_mem hlt
      obtain ⟨q, hq⟩ := some_of_mem _ hm
      exact .inr (.inr (.inr (.inr ⟨_, q, .inr rfl, he, hq⟩)))

/-- Serving a requester that has `q` outstanding. -/
theorem serve_eq {s : State} {k : Nat} {q : Request} (h : s.outstanding k = some q) :
    serve k s = deliverOutcome k (runCommand q.cmd (acceptRequest k q s)) := by
  unfold serve
  rw [h]

/-- All a step can do: hold the state (or pass an empty grant), reset, or run one command. -/
theorem step_cases (s : State) :
    (∃ es, step s = .next (s.setSchedule es)) ∨
    (∃ es, step s = .next (powerOnReset (s.setSchedule es))) ∨
    (∃ k q s1, ((∃ es, s1 = s.setSchedule es) ∨ s1 = s ∨ s1 = s.draw) ∧ s1.outstanding k = some q ∧
      step s = deliverOutcome k (runCommand q.cmd (acceptRequest k q s1))) := by
  unfold step
  rcases arbitrate_cases s with ⟨h, -, -⟩ | ⟨es, k, h, -, -⟩ | ⟨es, h, -⟩ | ⟨es, k, q, h, -, hq⟩ | ⟨k, q, h, -, hq⟩
  · exact .inl ⟨s.schedule, by rw [h]; rfl⟩
  · exact .inl ⟨es, by rw [h]⟩
  · exact .inr (.inl ⟨es, by rw [h]⟩)
  · exact .inr (.inr ⟨k, q, _, .inl ⟨es, rfl⟩, hq, by rw [h]; exact serve_eq hq⟩)
  · rcases h with h | h
    · exact .inr (.inr ⟨k, q, s, .inr (.inl rfl), hq, by rw [h]; exact serve_eq hq⟩)
    · exact .inr (.inr ⟨k, q, s.draw, .inr (.inr rfl), hq, by rw [h]; exact serve_eq hq⟩)

/-- What a command word runs. -/
theorem runCommand_ok {w : Word} {i : Instr} (h : decode w = .ok i) (s : State) : runCommand w s = exec i s := by
  unfold runCommand
  rw [h]

theorem runCommand_illegal {w : Word} {e : Reject} (h : decode w = .error e) (s : State) :
    runCommand w s = .next (s.setResponse ⟨.invalidParameter, none⟩) := by
  unfold runCommand
  rw [h]
  rfl

/-- A delivered next state came from a next state. -/
theorem deliverOutcome_next {k : Nat} {o : Outcome} {t : State} (h : deliverOutcome k o = .next t) :
    ∃ t0, o = .next t0 ∧ t = deliver k t0 := by
  cases o with
  | next t0 => exact ⟨t0, rfl, by simpa [deliverOutcome, eq_comm] using h⟩
  | fault f => simp [deliverOutcome] at h
  | refused r => simp [deliverOutcome] at h

/-- What every command leaves of its surroundings, and that it always leaves a response. -/
theorem exec_surroundings {i : Instr} {s t : State} (h : exec i s = .next t) :
    t.params = s.params ∧ t.din = s.din ∧ t.requesters = s.requesters ∧ t.schedule = s.schedule ∧
      t.draws = s.draws ∧ ∃ r, t.response = some r := by
  cases i with
  | register pe level scount ssize =>
    have h : execRegister pe level scount ssize s = .next t := h
    rcases execRegister_cases pe level scount ssize s with ⟨-, he⟩ | ⟨-, -, -, -, -, he⟩ | ⟨-, -, -, -, -, -, he⟩ <;>
      (rw [he] at h; cases h; exact ⟨rfl, rfl, rfl, rfl, rfl, _, rfl⟩)
  | unregister => cases h; exact ⟨rfl, rfl, rfl, rfl, rfl, _, rfl⟩
  | push lane len =>
    rcases execPush_next h with ⟨-, rfl⟩ | ⟨l, -, -, -, hp⟩
    · exact ⟨rfl, rfl, rfl, rfl, rfl, _, rfl⟩
    · rcases pushLane_next hp with ⟨-, -, -, ⟨-, rfl⟩ | ⟨-, -, rfl⟩⟩ <;> exact ⟨rfl, rfl, rfl, rfl, rfl, _, rfl⟩
  | pop =>
    rcases execPop_next h with ⟨-, rfl⟩ | ⟨-, -, hs⟩ | ⟨-, -, hs⟩
    · exact ⟨rfl, rfl, rfl, rfl, rfl, _, rfl⟩
    · rcases popSingle_next hs with ⟨-, -, -, ⟨-, rfl⟩ | ⟨-, hv⟩⟩
      · exact ⟨rfl, rfl, rfl, rfl, rfl, _, rfl⟩
      · obtain ⟨-, -, rfl⟩ := serveSlot_next hv
        exact ⟨rfl, rfl, rfl, rfl, rfl, _, rfl⟩
    · rcases popPriority_next hs with ⟨-, rfl⟩ | ⟨l, -, -, -, -, -, hv⟩
      · exact ⟨rfl, rfl, rfl, rfl, rfl, _, rfl⟩
      · obtain ⟨-, -, rfl⟩ := serveSlot_next hv
        exact ⟨rfl, rfl, rfl, rfl, rfl, _, rfl⟩

/-- The same for every command word, legal or not. -/
theorem runCommand_surroundings {w : Word} {s t : State} (h : runCommand w s = .next t) :
    t.params = s.params ∧ t.din = s.din ∧ t.requesters = s.requesters ∧ t.schedule = s.schedule ∧
      t.draws = s.draws ∧ ∃ r, t.response = some r := by
  cases hd : decode w with
  | ok i => rw [runCommand_ok hd] at h; exact exec_surroundings h
  | error e => rw [runCommand_illegal hd] at h; cases h; exact ⟨rfl, rfl, rfl, rfl, rfl, _, rfl⟩

/-- A scheduled grant to a requester that has `q` outstanding runs `q`. -/
theorem step_granted {s : State} {k : Nat} {es : List Event} {q : Request} (h : s.schedule = .grant k :: es)
    (hq : s.outstanding k = some q) :
    step s = deliverOutcome k (runCommand q.cmd (acceptRequest k q (s.setSchedule es))) := by
  have ha : arbitrate s = (.serve k, s.setSchedule es) := by
    unfold arbitrate; rw [h]; simp [hq]
  unfold step; rw [ha]
  exact serve_eq hq

end Sys2Proof.Machine
end

