-- ==== Sys2Proof/Laws/Invariant.lean ====
section
/-! SUPPORT. What the invariant gives a command, and what it does not depend on. -/

namespace Sys2Proof.Machine

/-- The invariant reads the parameters, the configuration, the indices and the store only. -/
theorem State.Inv.of_block_eq {s t : State} (h : s.Inv) (h1 : t.params = s.params) (h2 : t.active = s.active)
    (h3 : t.prioEn = s.prioEn) (h4 : t.laneCount = s.laneCount) (h5 : t.slotCount = s.slotCount)
    (h6 : t.slotSize = s.slotSize) (h7 : t.widx = s.widx) (h8 : t.ridx = s.ridx) (h9 : t.store = s.store) :
    t.Inv := by
  cases s; cases t
  subst h1 h2 h3 h4 h5 h6 h7 h8 h9
  exact ⟨h.params, h.files, h.store, h.active, h.unregistered⟩

/-- A configured lane has its index registers (R26, R36). -/
theorem State.Inv.lane_registers {s : State} (h : s.Inv) (ha : s.active = true) :
    s.laneCount.toNat ≤ s.widx.length ∧ s.laneCount.toNat ≤ s.ridx.length := by
  obtain ⟨-, hm, hx, -⟩ := h.active ha
  exact ⟨by rw [h.files.1]; exact hx, by rw [h.files.2]; exact hx⟩

/-- A slot of a configured lane lies inside the store (R36, R50). -/
theorem State.Inv.slot_in_store {s : State} (h : s.Inv) (ha : s.active = true) {l i : Nat}
    (hl : l < s.laneCount.toNat) (hi : i < s.slotCount.toNat) :
    s.slotAddr l i + s.slotSize.toNat ≤ s.params.storeBytes := by
  obtain ⟨-, -, -, -, -, hg, -⟩ := h.active ha
  exact Nat.le_trans (slot_in_region hl hi) hg

/-- The lane a PUSH selects is a configured one. -/
theorem State.Inv.selected_lane {s : State} (h : s.Inv) (ha : s.active = true) {lane : BitVec 8} {l : Nat}
    (hs : s.selectLane lane = some l) : l < s.laneCount.toNat := by
  obtain ⟨-, hc, -⟩ := h.active ha
  rcases selectLane_eq_some.1 hs with ⟨-, h1, rfl⟩ | ⟨-, rfl⟩
  · exact h1
  · omega

/-- The index registers of a configured lane are below SLOT_COUNT (R36). -/
theorem State.Inv.indices_lt {s : State} (h : s.Inv) (ha : s.active = true) {l : Nat} (hl : l < s.laneCount.toNat) :
    s.W l < s.slotCount.toNat ∧ s.R l < s.slotCount.toNat := by
  obtain ⟨-, -, -, -, -, -, hw, -⟩ := h.active ha
  exact hw l hl

/-- PUSH, as an equation, once its three checks pass. -/
theorem State.Inv.execPush_eq {s : State} (hi : s.Inv) (ha : s.active = true) {lane : BitVec 8} {len : BitVec 16}
    {l : Nat} (hlen : len.toNat ≤ s.slotSize.toNat) (hs : s.selectLane lane = some l) :
    execPush lane len s = if s.laneFull l then answer .outOfMemory s else .next (pushedState l len s) := by
  have hl := hi.selected_lane ha hs
  have hr := hi.lane_registers ha
  obtain ⟨-, -, -, hc, -⟩ := hi.active ha
  have hb := hi.slot_in_store ha hl (hi.indices_lt ha hl).1
  have hp : (s.payload len).length ≤ len.toNat := by simp [State.payload]
  rw [Machine.execPush_eq ha hlen hs, pushLane_eq (by omega) (by omega) hc (by omega)]

/-- POP in single-lane mode, as an equation. -/
theorem State.Inv.execPop_single {s : State} (hi : s.Inv) (ha : s.active = true) (hp : s.prioEn = false) :
    execPop s =
      if singleEmptyTest s.params.popEmptyCheck (s.R 0) (s.W 0) ((s.R 0 + 1) % s.slotCount.toNat) then
        answerWithDout .noData s
      else .next (servedState 0 (s.R 0) s) := by
  have hr := hi.lane_registers ha
  obtain ⟨-, h2, -, hc, -⟩ := hi.active ha
  have h0 : 0 < s.laneCount.toNat := by omega
  have hb := hi.slot_in_store ha h0 (hi.indices_lt ha h0).2
  unfold execPop
  rw [if_pos ha, hp, popSingle_eq (by omega) (by omega) hc, serveSlot_eq hc hb]
  rfl

/-- POP in priority mode where the scanner serves lane `l`. -/
theorem State.Inv.execPop_serves {s : State} (hi : s.Inv) (ha : s.active = true) (hp : s.prioEn = true) {l : Nat}
    (hs : s.ScanServes l) : execPop s = .next (servedState l (s.R l) s) := by
  have hr := hi.lane_registers ha
  obtain ⟨-, -, -, hc, -⟩ := hi.active ha
  obtain ⟨h1, h2, h3⟩ := hs
  have hb := hi.slot_in_store ha h1 (hi.indices_lt ha h1).2
  unfold execPop
  rw [if_pos ha, hp, if_pos rfl, popPriority_serves hr.1 hr.2 h1 h2 h3, serveSlot_eq hc hb]

/-- POP in priority mode with every lane empty. -/
theorem State.Inv.execPop_all_empty {s : State} (hi : s.Inv) (ha : s.active = true) (hp : s.prioEn = true)
    (he : ∀ l < s.laneCount.toNat, s.laneEmpty l = true) :
    execPop s = answerWithDout (emptyPrioStatus s.params) s := by
  have hr := hi.lane_registers ha
  unfold execPop
  rw [if_pos ha, hp, if_pos rfl, popPriority_all_empty hr.1 hr.2 he]

/-- A run starts with its first step, on any machine. -/
theorem core_run_succ {M : Host.Core} {s t : M.State} (h : M.step s = .next t) (n : Nat) :
    M.run (n + 1) s = M.run n t := by
  simp only [Host.Core.run, h]

/-- A run of the block starts with its first step. -/
theorem run_succ {s t : State} (h : step s = .next t) (n : Nat) :
    Host.Core.run Sys2Proof.core (n + 1) s = Host.Core.run Sys2Proof.core n t :=
  core_run_succ (M := Sys2Proof.core) h n

end Sys2Proof.Machine
end

