-- ==== Sys2Proof/Laws/PerInstr.lean ====
section
/-! SUPPORT. A family of statements made once per instruction: the line of 30_encoding.md R93 that
spells an instruction is well formed and assembles to the instruction's word. -/

namespace Sys2Proof.Laws.Spelled

/-- The line that spells `i` is well formed and assembles to the word the encoder gives, whose opcode
is a named one (R89, R93). -/
def Statement (i : Instr) : Prop :=
  (i.toLine []).wellFormed = true ∧ (assemble (i.toLine [])).map Prod.fst = some (encode i) ∧
    opcodeNamed (bits (encode i) 0 4) = true

theorem ofNat_toNat_word (w : Word) (n : Nat) (h : n = w.toNat) : BitVec.ofNat 32 n = w := by
  subst h; simp

/-- The opcode is the last four bits laid out. -/
theorem opcode_append (x : BitVec 28) (y : BitVec 4) : bits (x ++ y) 0 4 = y := by
  apply BitVec.eq_of_getLsbD_eq
  intro i hi
  have h : (x ++ y).getLsbD i = y.getLsbD i := by rw [BitVec.getLsbD_append, if_pos hi]
  simpa [bits, hi] using h

theorem register (pe : Bool) (level scount ssize : BitVec 8) : Statement (.register pe level scount ssize) := by
  have hw : ((Instr.register pe level scount ssize).toLine []).wellFormed = true := by
    cases pe <;> simp [Instr.toLine, AsmLine.wellFormed, level.isLt, scount.isLt, ssize.isLt]
  refine ⟨hw, ?_, ?_⟩
  · unfold assemble
    rw [if_pos hw]
    simp only [Instr.toLine, Option.map_some, Option.some.injEq]
    apply ofNat_toNat_word
    simp only [encode, BitVec.toNat_append]
    cases pe <;> simp [Nat.shiftLeft_or_distrib, ← Nat.shiftLeft_add, Nat.or_assoc]
  · exact (congrArg opcodeNamed (opcode_append _ 1#4)).trans (by decide)

theorem unregister : Statement .unregister := by
  refine ⟨rfl, by decide, by decide⟩

theorem push (lane : BitVec 8) (len : BitVec 16) : Statement (.push lane len) := by
  have hw : ((Instr.push lane len).toLine []).wellFormed = true := by
    simp [Instr.toLine, AsmLine.wellFormed, lane.isLt, len.isLt]
  refine ⟨hw, ?_, ?_⟩
  · unfold assemble
    rw [if_pos hw]
    simp only [Instr.toLine, Option.map_some, Option.some.injEq]
    apply ofNat_toNat_word
    simp only [encode, BitVec.toNat_append]
    simp [Nat.shiftLeft_or_distrib, ← Nat.shiftLeft_add, Nat.or_assoc]
  · exact (congrArg opcodeNamed (opcode_append _ 3#4)).trans (by decide)

theorem pop : Statement .pop := by
  refine ⟨rfl, by decide, by decide⟩

end Sys2Proof.Laws.Spelled
end

