-- ==== Sys2Proof/Tests/Slice0.lean ====
section
/-! SUPPORT. The model's own tests: ill-formed lines, words written out from the spec's encodings,
one-step vectors of spec/95_test_vectors.md, and for each obligation with hypotheses a state and
operands that meet them, at the boundary of each clause. -/

namespace Sys2Proof.Tests

open Sys2Proof.Machine

/-! ### Small states -/

/-- A block of 2 lanes and 16 store bytes. -/
def small (c : PopEmptyCheck) (e : PrioEmptyStatus) : Params := ⟨2, 16, c, e⟩

/-- That block right after reset. -/
def fresh : State := State.resetWith (small .exact .noData) [] [] 0

/-- Active in single-lane mode, with lane 0's indices and a store. -/
def single (c : PopEmptyCheck) (sc ss : BitVec 8) (w r : Index) (m : Memory) : State :=
  { State.resetWith (small c .noData) [] [] 0 with
    active := true, laneCount := 1, slotCount := sc, slotSize := ss, widx := [w, 0], ridx := [r, 0], store := m }

/-- Active in priority mode with 2 lanes of 4 slots of 2 bytes, which fill the store. -/
def prio (e : PrioEmptyStatus) (w r : List Index) (m : Memory) : State :=
  { State.resetWith (small .exact e) [] [] 0 with
    active := true, prioEn := true, laneCount := 2, slotCount := 4, slotSize := 2, widx := w, ridx := r, store := m }

/-- The block of spec/95_test_vectors.md after `REGISTER 0, 0, 4, 8`, with lane 0's indices and a store. -/
def vec048 (c : PopEmptyCheck) (w r : Index) (m : Memory) : State :=
  { State.resetWith ⟨8, 2048, c, .noData⟩ [] [] 0 with
    active := true, laneCount := 1, slotCount := 4, slotSize := 8, widx := w :: List.replicate 7 0
    ridx := r :: List.replicate 7 0, store := m }

/-- The block of spec/95_test_vectors.md after `REGISTER 1, 3, 4, 2`, with indices and a store. -/
def vec1342 (w r : List Index) (m : Memory) : State :=
  { State.resetWith ⟨8, 2048, .exact, .noData⟩ [] [] 0 with
    active := true, prioEn := true, laneCount := 3, slotCount := 4, slotSize := 2
    widx := w ++ List.replicate 5 0, ridx := r ++ List.replicate 5 0, store := m }

/-- What the vectors of spec/95_test_vectors.md tell of an end state: the lifecycle, PRIO_EN, the geometry,
the indices of the first three lanes, and the response's status code. -/
structure Summary where
  active : Bool
  prioEn : Bool
  geometry : List Nat
  widx : List Nat
  ridx : List Nat
  status : Option (BitVec 2)
  deriving DecidableEq, Repr

/-- The summary of an outcome's next state. -/
def summary : Outcome → Option Summary
  | .next t =>
    some ⟨t.active, t.prioEn, [t.laneCount.toNat, t.slotCount.toNat, t.slotSize.toNat], [t.W 0, t.W 1, t.W 2],
      [t.R 0, t.R 1, t.R 2], t.response.map fun r => r.status.code⟩
  | _ => none

/-- The first `n` bytes of the DOUT copy in an outcome's response. -/
def doutOf (n : Nat) : Outcome → Option (List Byte)
  | .next t => t.response.bind fun r => r.dout.map fun d => d.toList.take n
  | _ => none

/-- The bytes at offsets `[a, a + n)` of an outcome's store. -/
def storeOf (a n : Nat) : Outcome → Option (List Byte)
  | .next t => some (t.store.readBytes a n)
  | _ => none

/-! ### Well-formedness: each check refuses an ill-formed line (30_encoding.md R82 to R84, R93) -/

theorem test_wf_register_pe : AsmLine.wellFormed (.register 2 0 4 8) = false := by decide
theorem test_wf_register_level : AsmLine.wellFormed (.register 1 256 4 8) = false := by decide
theorem test_wf_register_scount : AsmLine.wellFormed (.register 0 0 256 8) = false := by decide
theorem test_wf_register_ssize : AsmLine.wellFormed (.register 0 0 4 256) = false := by decide
theorem test_wf_push_lane : AsmLine.wellFormed (.push 256 1 [120]) = false := by decide
theorem test_wf_push_len : AsmLine.wellFormed (.push 0 65536 []) = false := by decide
theorem test_wf_push_list_length : AsmLine.wellFormed (.push 0 2 [120]) = false := by decide
theorem test_wf_push_byte : AsmLine.wellFormed (.push 0 1 [256]) = false := by decide
theorem test_wf_word : AsmLine.wellFormed (.word 0x100000000) = false := by decide
theorem test_wf_ill_formed_has_no_word : assemble (.register 2 0 4 8) = none := by decide
theorem test_wf_well_formed_lines :
    (AsmLine.register 1 255 255 255).wellFormed = true ∧ AsmLine.unregister.wellFormed = true ∧
      (AsmLine.push 255 2 [97, 255]).wellFormed = true ∧ AsmLine.pop.wellFormed = true ∧
      (AsmLine.word 0xFFFFFFFF).wellFormed = true := by decide
/-- 95_test_vectors.md V3, V34, V50: the words of three lines. -/
theorem test_assemble_words :
    ((assemble (.register 1 3 4 2)).map Prod.fst, (assemble (.push 200 1 [120])).map Prod.fst,
      (assemble .pop).map Prod.fst) = (some 0x02040311, some 0x0001C803, some 0x00000004) := by decide

/-! ### Decoding: words laid out bit by bit from 30_encoding.md R82 to R85 and R89 -/

/-- R82: SSIZE 31:24, SCOUNT 23:16, LEVEL 15:8, 0 7:5, PE 4, OP 3:0. -/
theorem test_decode_register : decode 0b00000010_00000100_00000011_000_1_0001#32 = .ok (.register true 3 4 2) := by
  decide
/-- R83: 0 31:4, OP 3:0. -/
theorem test_decode_unregister : decode 0b0000000000000000000000000000_0010#32 = .ok .unregister := by decide
/-- R84: LEN 31:16, LANE 15:8, 0 7:4, OP 3:0. -/
theorem test_decode_push : decode 0b0000000100000010_00000101_0000_0011#32 = .ok (.push 5 258) := by decide
/-- R85: 0 31:4, OP 3:0. -/
theorem test_decode_pop : decode 0b0000000000000000000000000000_0100#32 = .ok .pop := by decide
/-- V90 to V92: the reserved opcodes at the ends of their ranges. -/
theorem test_decode_reserved_opcodes :
    decode 0x00000000 = .error (.reservedOpcode 0) ∧ decode 0x00000005 = .error (.reservedOpcode 5) ∧
      decode 0x0000000F = .error (.reservedOpcode 15) := by decide
/-- V18, V19, V94: REGISTER with bit 5, bit 7, or bits 7:5 set. -/
theorem test_decode_register_reserved_bits :
    decode 0x08040021 = .error (.reservedBitSet 1) ∧ decode 0x08040081 = .error (.reservedBitSet 1) ∧
      decode 0x000000E1 = .error (.reservedBitSet 1) := by decide
/-- V24, V96: UNREGISTER with bit 31 or bit 4 set. -/
theorem test_decode_unregister_reserved_bits :
    decode 0x80000002 = .error (.reservedBitSet 2) ∧ decode 0x00000012 = .error (.reservedBitSet 2) := by decide
/-- V45, V46: PUSH with bit 4 or bit 7 set. -/
theorem test_decode_push_reserved_bits :
    decode 0x00080013 = .error (.reservedBitSet 3) ∧ decode 0x00010083 = .error (.reservedBitSet 3) := by decide
/-- V61, V95: POP with bit 4 or bit 8 set. -/
theorem test_decode_pop_reserved_bits :
    decode 0x00000014 = .error (.reservedBitSet 4) ∧ decode 0x00000104 = .error (.reservedBitSet 4) := by decide
/-- A row's bits are the low bits of the word; a longer row is no command. -/
theorem test_decode_table_word :
    decodeTableWord 32 0x0001C803 = some (.push 200 1) ∧ decodeTableWord 32 0x00000005 = none ∧
      decodeTableWord 40 0x00000004 = none := by decide

/-! ### One step of each command (95_test_vectors.md) -/

/-- V3: `REGISTER 1, 3, 4, 2` from reset. -/
theorem test_register_v3 : summary (step (State.reset.withFetchWord 32 0x02040311)) =
    some ⟨true, true, [3, 4, 2], [0, 0, 0], [0, 0, 0], some 0⟩ := by decide
/-- V10: `REGISTER 1, 8, 16, 17` from reset asks for 2176 bytes of 2048. -/
theorem test_register_v10 : summary (step (State.reset.withFetchWord 32 0x11100811)) =
    some ⟨false, false, [0, 0, 0], [0, 0, 0], [0, 0, 0], some 2⟩ := by decide
/-- V21: UNREGISTER with two unread items. -/
theorem test_unregister_v21 : summary (step ((vec048 .exact 2 0 [(0, 65)]).withFetchWord 32 0x00000002)) =
    some ⟨false, false, [0, 0, 0], [0, 0, 0], [0, 0, 0], some 0⟩ := by decide
/-- V40: PUSH into slot 3 of a lane with a free slot wraps WIDX[0] from 3 to 0; the byte is at offset 24. -/
theorem test_push_v40 :
    (summary (exec (.push 0 1) ((vec048 .exact 3 1 []).setDin (dinOfBytes [100]))),
      storeOf 24 2 (exec (.push 0 1) ((vec048 .exact 3 1 []).setDin (dinOfBytes [100])))) =
    (some ⟨true, false, [1, 4, 8], [0, 0, 0], [1, 0, 0], some 0⟩, some [100, 0]) := by decide
/-- V36: LANE = LANE_COUNT in priority mode. -/
theorem test_push_v36 : summary (exec (.push 3 1) (vec1342 [0, 0, 0] [0, 0, 0] [])) =
    some ⟨true, true, [3, 4, 2], [0, 0, 0], [0, 0, 0], some 1⟩ := by decide
/-- V73: only lane 2 holds an item, "c1" at offset (2 * 4 + 0) * 2 = 16. -/
theorem test_pop_v73 :
    (summary (exec .pop (vec1342 [0, 0, 1] [0, 0, 0] [(16, 99), (17, 49)])),
      doutOf 2 (exec .pop (vec1342 [0, 0, 1] [0, 0, 0] [(16, 99), (17, 49)]))) =
    (some ⟨true, true, [3, 4, 2], [0, 0, 1], [0, 0, 1], some 0⟩, some [99, 49]) := by decide
/-- V104: LEGACY_NEXT with one item answers NoData. -/
theorem test_pop_v104 : summary (exec .pop (vec048 .legacyNext 1 0 [(0, 97)])) =
    some ⟨true, false, [1, 4, 8], [1, 0, 0], [0, 0, 0], some 3⟩ := by decide

/-! ### Witnesses: the hypotheses of each obligation, met -/

/-- The fresh block meets the invariant; so do the small Active blocks below. -/
theorem inv_fresh : fresh.Inv := ⟨by decide, by decide, by decide, by decide, by decide⟩
theorem inv_single_empty : (single .exact 4 4 3 3 []).Inv := ⟨by decide, by decide, by decide, by decide, by decide⟩
theorem inv_single_one : (single .exact 4 4 0 3 [(12, 7)]).Inv := ⟨by decide, by decide, by decide, by decide, by decide⟩
theorem inv_single_full : (single .exact 4 4 2 3 [(12, 7)]).Inv := ⟨by decide, by decide, by decide, by decide, by decide⟩
theorem inv_single_slot : (single .exact 1 4 0 0 []).Inv := ⟨by decide, by decide, by decide, by decide, by decide⟩
theorem inv_legacy_empty : (single .legacyNext 4 4 3 3 []).Inv := ⟨by decide, by decide, by decide, by decide, by decide⟩
theorem inv_legacy_one : (single .legacyNext 4 4 0 3 [(12, 7)]).Inv :=
  ⟨by decide, by decide, by decide, by decide, by decide⟩
theorem inv_prio_empty : (prio .noData [3, 1] [3, 1] []).Inv := ⟨by decide, by decide, by decide, by decide, by decide⟩
theorem inv_prio_legacy_empty : (prio .legacyOk [0, 0] [0, 0] []).Inv :=
  ⟨by decide, by decide, by decide, by decide, by decide⟩
theorem inv_prio_last : (prio .noData [3, 0] [3, 3] [(14, 5), (15, 6)]).Inv :=
  ⟨by decide, by decide, by decide, by decide, by decide⟩

/-- The premises the statements about single-lane mode share. -/
abbrev InSingle (c : PopEmptyCheck) (s : State) : Prop :=
  s.Inv ∧ s.active = true ∧ s.prioEn = false ∧ s.params.popEmptyCheck = c

/-- The premises the statements about priority mode share. -/
abbrev InPriority (s : State) : Prop := s.Inv ∧ s.active = true ∧ s.prioEn = true

theorem in_single_empty : InSingle .exact (single .exact 4 4 3 3 []) := ⟨inv_single_empty, rfl, rfl, rfl⟩
theorem in_single_one : InSingle .exact (single .exact 4 4 0 3 [(12, 7)]) := ⟨inv_single_one, rfl, rfl, rfl⟩
theorem in_single_full : InSingle .exact (single .exact 4 4 2 3 [(12, 7)]) := ⟨inv_single_full, rfl, rfl, rfl⟩
theorem in_legacy_empty : InSingle .legacyNext (single .legacyNext 4 4 3 3 []) := ⟨inv_legacy_empty, rfl, rfl, rfl⟩
theorem in_legacy_one : InSingle .legacyNext (single .legacyNext 4 4 0 3 [(12, 7)]) := ⟨inv_legacy_one, rfl, rfl, rfl⟩
theorem in_prio_empty : InPriority (prio .noData [3, 1] [3, 1] []) := ⟨inv_prio_empty, rfl, rfl⟩
theorem in_prio_legacy_empty : InPriority (prio .legacyOk [0, 0] [0, 0] []) := ⟨inv_prio_legacy_empty, rfl, rfl⟩
theorem in_prio_last : InPriority (prio .noData [3, 0] [3, 3] [(14, 5), (15, 6)]) := ⟨inv_prio_last, rfl, rfl⟩

/-- Two requesters on an empty single lane: a PUSH of lane 0, one byte, and a POP. -/
def twoRequesters : State :=
  (single .exact 4 4 3 3 []).setRequesters [⟨[⟨0x00010003, dinOfBytes [112]⟩], []⟩, ⟨[⟨0x00000004, dinOfBytes []⟩], []⟩]

theorem inv_two : twoRequesters.Inv := ⟨by decide, by decide, by decide, by decide, by decide⟩

/-- EncodeOfDecode, FieldsReadStraight: words with every field at its extremes. -/
theorem witness_decoded_words :
    decode 0xFFFFFF11 = .ok (.register true 255 255 255) ∧ decode 0x00000001 = .ok (.register false 0 0 0) ∧
      decode 0xFFFFFF03 = .ok (.push 255 65535) ∧ decode 0x00000003 = .ok (.push 0 0) := by decide

/-- RowsSelectTheCommand: reserved opcodes at the ends of both ranges, and a row that matches. -/
theorem witness_rows :
    (0xFFFFFFF0 : Word).toNat % 16 = 0 ∧ 5 ≤ (0x00000005 : Word).toNat % 16 ∧ 5 ≤ (0xFFFFFFFF : Word).toNat % 16 ∧
      rowPush ∈ opcodeRows ∧ rowPush.matches 0xFFFFFF03 = true := by decide

/-- IllegalWordIsRefusedFirst: an illegal word of each cause. -/
theorem witness_illegal_words :
    ∀ w ∈ [0x00000000, 0x00000005, 0xFFFFFFFF, 0x00000021, 0x00000012, 0x80000002, 0x00000013, 0x00000014],
      ∀ i, decode w ≠ .ok i := by
  have illegal : ∀ (w : Word) (i : Instr), (decode w).toOption = none → decode w ≠ .ok i := fun w i h hi => by
    rw [hi] at h; cases h
  intro w hw i
  apply illegal
  fin_cases hw <;> decide

/-- RegisterStatusByCause: each misuse alone, each capacity cause one past its bound, and an exact fit. -/
theorem witness_register_status :
    (bits 0x02040221 0 4 = 1 ∧ bits 0x02040221 5 3 ≠ 0) ∧
    (bits 0x02040211 0 4 = 1 ∧ (single .exact 4 4 0 0 []).active = true) ∧
    (bits 0x02040011 0 4 = 1 ∧ (0x02040011 : Word).getLsbD 4 = true ∧ bits 0x02040011 8 8 = 0) ∧
    (bits 0x02000211 0 4 = 1 ∧ bits 0x02000211 16 8 = 0) ∧ (bits 0x00040211 0 4 = 1 ∧ bits 0x00040211 24 8 = 0) ∧
    (bits 0x01010311 0 4 = 1 ∧ bits 0x01010311 5 3 = 0 ∧ fresh.active = false ∧
      fresh.params.maxLanes < (bits 0x01010311 8 8).toNat) ∧
    (bits 0x11010001 0 4 = 1 ∧ fresh.params.storeBytes < 1 * (bits 0x11010001 16 8).toNat * (bits 0x11010001 24 8).toNat) ∧
    (bits 0x02040211 5 3 = 0 ∧ bits 0x02040211 8 8 = 2 ∧ 2 = fresh.params.maxLanes ∧
      2 * (bits 0x02040211 16 8).toNat * (bits 0x02040211 24 8).toNat = fresh.params.storeBytes) := by decide

/-- RegisterConfigures: an exact fit in both modes. -/
theorem witness_register_configures :
    fresh.active = false ∧ ¬(true = true ∧ (2 : BitVec 8) = 0) ∧ (4 : BitVec 8) ≠ 0 ∧
      (2 : BitVec 8).toNat ≤ fresh.params.maxLanes ∧
      (2 : BitVec 8).toNat * (4 : BitVec 8).toNat * (2 : BitVec 8).toNat ≤ fresh.params.storeBytes ∧
      1 * (4 : BitVec 8).toNat * (4 : BitVec 8).toNat ≤ fresh.params.storeBytes := by decide

/-- ZeroFillIsByteWrites: a canonical store with bytes inside and outside the filled part. -/
theorem witness_zero_fill : Memory.wf [(0, 1), (3, 2), (4, 5)] := by decide

/-- UnregisterIsIdempotent, DataCommandsNeedRegistration: UNREGISTER answers a next state from an Active
and from an Unregistered block. -/
theorem witness_unregister :
    (single .exact 4 4 2 3 [(12, 7)]).Inv ∧ fresh.Inv ∧ fresh.active = false ∧
      exec .unregister (single .exact 4 4 2 3 [(12, 7)]) = .next (unregisteredState (single .exact 4 4 2 3 [(12, 7)])) ∧
      exec .unregister fresh = .next (unregisteredState fresh) :=
  ⟨inv_single_full, inv_fresh, rfl, rfl, rfl⟩

/-- PushStatusByCause: a reserved bit, an Unregistered block, LEN one past SLOT_SIZE, LANE at LANE_COUNT; a
full lane; and a lane with room, LEN = SLOT_SIZE and LANE the last lane. -/
theorem witness_push_status :
    fresh.Inv ∧ InSingle .exact (single .exact 4 4 2 3 [(12, 7)]) ∧ InPriority (prio .noData [3, 1] [3, 1] []) ∧
    (bits 0x00010013 0 4 = 3 ∧ bits 0x00010013 4 4 ≠ 0) ∧ (bits 0x00010003 0 4 = 3 ∧ fresh.active = false) ∧
    (bits 0x00050003 0 4 = 3 ∧ (single .exact 4 4 2 3 [(12, 7)]).slotSize.toNat + 1 = (bits 0x00050003 16 16).toNat) ∧
    (bits 0x00010203 0 4 = 3 ∧ (prio .noData [3, 1] [3, 1] []).laneCount.toNat = (bits 0x00010203 8 8).toNat) ∧
    (bits 0x0004FF03 0 4 = 3 ∧ (bits 0x0004FF03 16 16).toNat = (single .exact 4 4 2 3 [(12, 7)]).slotSize.toNat ∧
      (single .exact 4 4 2 3 [(12, 7)]).laneFull 0 = true) ∧
    (bits 0x00020103 0 4 = 3 ∧ (bits 0x00020103 8 8).toNat + 1 = (prio .noData [3, 1] [3, 1] []).laneCount.toNat ∧
      (prio .noData [3, 1] [3, 1] []).laneFull 1 = false) :=
  ⟨inv_fresh, in_single_full, in_prio_empty, by decide, by decide, by decide, by decide, by decide, by decide⟩

/-- PushEnqueues, LanesAreFifoQueues (PUSH): LEN = SLOT_SIZE, the last lane, room for one item. -/
theorem witness_push_enqueues :
    (prio .noData [3, 0] [3, 3] [(14, 5), (15, 6)]).Inv ∧ (prio .noData [3, 0] [3, 3] [(14, 5), (15, 6)]).active = true ∧
      (2 : BitVec 16).toNat ≤ (prio .noData [3, 0] [3, 3] [(14, 5), (15, 6)]).slotSize.toNat ∧
      (prio .noData [3, 0] [3, 3] [(14, 5), (15, 6)]).PushGoesTo 1 1 ∧
      (prio .noData [3, 0] [3, 3] [(14, 5), (15, 6)]).laneFull 1 = false :=
  ⟨inv_prio_last, rfl, by decide, .inl (by decide), by decide⟩

/-- PushEnqueues in single-lane mode: any LANE goes to lane 0. -/
theorem witness_push_single :
    InSingle .exact (single .exact 4 4 3 3 []) ∧ (single .exact 4 4 3 3 []).PushGoesTo 200 0 ∧
      (single .exact 4 4 3 3 []).laneFull 0 = false :=
  ⟨in_single_empty, .inr (by decide), by decide⟩

/-- PushFrame, PushRaisesOccupancyByOne, PushNeverOverwritesUnread: a PUSH that answers Ok on a lane with
an unread item, and one that answers OutOfMemory. -/
theorem witness_push_answers :
    InSingle .exact (single .exact 4 4 0 3 [(12, 7)]) ∧ InSingle .exact (single .exact 4 4 2 3 [(12, 7)]) ∧
    (∃ t, exec (.push 0 4) (single .exact 4 4 0 3 [(12, 7)]) = .next t ∧ t.response = some ⟨.ok, none⟩) ∧
    (single .exact 4 4 0 3 [(12, 7)]).occupancy 0 = 1 ∧ (single .exact 4 4 0 3 [(12, 7)]).store.wf ∧
    ∃ t, exec (.push 0 4) (single .exact 4 4 2 3 [(12, 7)]) = .next t ∧ t.response = some ⟨.outOfMemory, none⟩ :=
  ⟨in_single_one, in_single_full, ⟨_, rfl, rfl⟩, by decide, by decide, ⟨_, rfl, rfl⟩⟩

/-- PushFrame: no lane selected in priority mode, and one selected. -/
theorem witness_push_frame :
    (prio .noData [3, 0] [3, 3] []).selectLane 2 = none ∧ (prio .noData [3, 0] [3, 3] []).selectLane 1 = some 1 ∧
      ∃ t, exec (.push 2 1) (prio .noData [3, 0] [3, 3] []) = .next t :=
  ⟨by decide, by decide, ⟨_, rfl⟩⟩

/-- PushThenPopReturnsPayload: an empty lane whose indices stand at the last slot; LEN 0 and SLOT_SIZE. -/
theorem witness_push_then_pop :
    (single .exact 4 4 3 3 []).Inv ∧ (single .exact 4 4 3 3 []).active = true ∧
      (single .exact 4 4 3 3 []).prioEn = false ∧ (single .exact 4 4 3 3 []).params.popEmptyCheck = .exact ∧
      (single .exact 4 4 3 3 []).laneEmpty 0 = true ∧ 2 ≤ (single .exact 4 4 3 3 []).slotCount.toNat ∧
      (0 : BitVec 16).toNat ≤ (single .exact 4 4 3 3 []).slotSize.toNat ∧
      (4 : BitVec 16).toNat = (single .exact 4 4 3 3 []).slotSize.toNat :=
  ⟨inv_single_empty, rfl, rfl, rfl, by decide, by decide, by decide, by decide⟩

/-- PopSingleStatusByCause, PopSingleServes: a reserved bit, an Unregistered block, nothing to serve under
each setting, and something to serve under each. -/
theorem witness_pop_single :
    InSingle .exact (single .exact 4 4 3 3 []) ∧ InSingle .exact (single .exact 4 4 0 3 [(12, 7)]) ∧
    InSingle .legacyNext (single .legacyNext 4 4 3 3 []) ∧ InSingle .legacyNext (single .legacyNext 4 4 0 3 [(12, 7)]) ∧
    fresh.Inv ∧
    (bits 0x80000004 0 4 = 4 ∧ bits 0x80000004 4 28 ≠ 0) ∧ (bits 0x00000004 0 4 = 4 ∧ fresh.active = false) ∧
    fresh.prioEn = false ∧ bits 0x00000004 4 28 = 0 ∧
    (single .exact 4 4 3 3 []).R 0 = (single .exact 4 4 3 3 []).W 0 ∧
    ((single .legacyNext 4 4 0 3 [(12, 7)]).R 0 + 1) % 4 = (single .legacyNext 4 4 0 3 [(12, 7)]).W 0 ∧
    (single .exact 4 4 0 3 [(12, 7)]).R 0 ≠ (single .exact 4 4 0 3 [(12, 7)]).W 0 ∧
    ((single .legacyNext 4 4 3 3 []).R 0 + 1) % 4 ≠ (single .legacyNext 4 4 3 3 []).W 0 :=
  ⟨in_single_empty, in_single_one, in_legacy_empty, in_legacy_one, inv_fresh, by decide⟩

/-- PopPriorityStatusByCause, PopPriorityLowersOccupancyByOne: every lane empty under each setting, and
the last lane the only one that is not. -/
theorem witness_pop_priority :
    InPriority (prio .noData [3, 1] [3, 1] []) ∧ InPriority (prio .legacyOk [0, 0] [0, 0] []) ∧
    InPriority (prio .noData [3, 0] [3, 3] [(14, 5), (15, 6)]) ∧ bits 0x00000004 0 4 = 4 ∧
    (∀ l < (prio .noData [3, 1] [3, 1] []).laneCount.toNat, (prio .noData [3, 1] [3, 1] []).laneEmpty l = true) ∧
    (∀ l < (prio .legacyOk [0, 0] [0, 0] []).laneCount.toNat, (prio .legacyOk [0, 0] [0, 0] []).laneEmpty l = true) ∧
    (prio .legacyOk [0, 0] [0, 0] []).params.prioEmptyStatus = .legacyOk ∧
    (∃ t, exec .pop (prio .noData [3, 1] [3, 1] []) = .next t) ∧
    ∃ t, exec .pop (prio .noData [3, 0] [3, 3] [(14, 5), (15, 6)]) = .next t :=
  ⟨in_prio_empty, in_prio_legacy_empty, in_prio_last, by decide, by decide, by decide, rfl, ⟨_, rfl⟩, ⟨_, rfl⟩⟩

/-- PopPriorityServesLeastLane, LanesAreFifoQueues (POP): the scanner serves the last lane, or lane 0. -/
theorem witness_scan_serves :
    InPriority (prio .noData [3, 0] [3, 3] [(14, 5), (15, 6)]) ∧ InSingle .exact (single .exact 4 4 0 3 [(12, 7)]) ∧
      (prio .noData [3, 0] [3, 3] [(14, 5), (15, 6)]).ScanServes 1 ∧ (prio .noData [0, 0] [3, 3] []).ScanServes 0 ∧
      (single .exact 4 4 0 3 [(12, 7)]).ScanServes 0 :=
  ⟨in_prio_last, in_single_one, ⟨by decide, by decide, by decide⟩, ⟨by decide, by decide, by decide⟩,
    ⟨by decide, by decide, by decide⟩⟩

/-- LanesAreFifoQueues (POP) under LEGACY_NEXT: lane 0 holds two items, is the one the scanner serves, and
POP answers Ok. -/
theorem witness_fifo_legacy :
    (single .legacyNext 4 4 1 3 [(0, 8), (12, 7)]).Inv ∧ (single .legacyNext 4 4 1 3 [(0, 8), (12, 7)]).active = true ∧
      (single .legacyNext 4 4 1 3 [(0, 8), (12, 7)]).ScanServes 0 ∧
      ∃ t, exec .pop (single .legacyNext 4 4 1 3 [(0, 8), (12, 7)]) = .next t ∧
        ∃ r, t.response = some r ∧ r.status = .ok :=
  ⟨⟨by decide, by decide, by decide, by decide, by decide⟩, rfl, ⟨by decide, by decide, by decide⟩,
    ⟨_, rfl, _, rfl, rfl⟩⟩

/-- PopSingleLowersOccupancyByOne, PopFrame: a POP that answers Ok, one that answers NoData, and one that
answers Ok on a lane LEGACY_NEXT misreads. -/
theorem witness_pop_answers :
    InSingle .exact (single .exact 4 4 0 3 [(12, 7)]) ∧ InSingle .exact (single .exact 4 4 3 3 []) ∧
    InSingle .legacyNext (single .legacyNext 4 4 3 3 []) ∧
    Answers (exec .pop (single .exact 4 4 0 3 [(12, 7)])) .ok ∧ Answers (exec .pop (single .exact 4 4 3 3 [])) .noData ∧
      Answers (exec .pop (single .legacyNext 4 4 3 3 [])) .ok ∧ (single .exact 4 4 0 3 [(12, 7)]).laneEmpty 0 = false :=
  ⟨in_single_one, in_single_empty, in_legacy_empty, ⟨_, _, rfl, rfl, rfl⟩, ⟨_, _, rfl, rfl, rfl⟩,
    ⟨_, _, rfl, rfl, rfl⟩, by decide⟩

/-- ExactPopsDrainInOrder: a full lane of three items. -/
theorem witness_drain :
    InSingle .exact (single .exact 4 4 2 3 [(12, 7)]) ∧ (single .exact 4 4 2 3 [(12, 7)]).occupancy 0 = 3 :=
  ⟨in_single_full, by decide⟩

/-- The LEGACY_NEXT statements: an empty lane, and a lane with one item. -/
theorem witness_legacy :
    InSingle .legacyNext (single .legacyNext 4 4 3 3 []) ∧ (single .legacyNext 4 4 3 3 []).laneEmpty 0 = true ∧
      2 ≤ (single .legacyNext 4 4 3 3 []).slotCount.toNat ∧
      InSingle .legacyNext (single .legacyNext 4 4 0 3 [(12, 7)]) ∧
      (single .legacyNext 4 4 0 3 [(12, 7)]).occupancy 0 = 1 :=
  ⟨in_legacy_empty, by decide, by decide, in_legacy_one, by decide⟩

/-- OccupancyEmptyFull, LegacyTestIsOccupancyOne: an empty and a full lane, and the last lane of two. -/
theorem witness_occupancy :
    InSingle .exact (single .exact 4 4 3 3 []) ∧ InSingle .exact (single .exact 4 4 2 3 [(12, 7)]) ∧
      InPriority (prio .noData [3, 0] [3, 3] [(14, 5), (15, 6)]) ∧ (single .exact 4 4 3 3 []).laneEmpty 0 = true ∧
      (single .exact 4 4 2 3 [(12, 7)]).laneFull 0 = true ∧
      1 < (prio .noData [3, 0] [3, 3] [(14, 5), (15, 6)]).laneCount.toNat :=
  ⟨in_single_empty, in_single_full, in_prio_last, by decide, by decide, by decide⟩

/-- OneSlotLaneHoldsNothing. -/
theorem witness_one_slot :
    (single .exact 1 4 0 0 []).Inv ∧ (single .exact 1 4 0 0 []).active = true ∧ (single .exact 1 4 0 0 []).slotCount = 1 ∧
      (single .exact 1 4 0 0 []).PushGoesTo 9 0 :=
  ⟨inv_single_slot, rfl, rfl, .inr (by decide)⟩

/-- SlotsPartitionTheRegion: the last byte of the last slot is the last byte of the region. -/
theorem witness_slots :
    (prio .noData [3, 0] [3, 3] []).slotAddr 1 3 + 1 = 15 ∧ (prio .noData [3, 0] [3, 3] []).region = 16 := by decide

/-- NoDataOnlyFromPop, OutOfMemoryCauses, FailureLeavesTheState: each status that is not Ok is answered. -/
theorem witness_failures :
    Answers (runCommand 0x00000004 (single .exact 4 4 3 3 [])) .noData ∧
      Answers (exec .pop (prio .noData [3, 1] [3, 1] [])) .noData ∧
      Answers (runCommand 0x01010311 fresh) .outOfMemory ∧
      Answers (exec (.register true 3 1 1) fresh) .outOfMemory ∧
      Answers (exec (.push 0 4) (single .exact 4 4 2 3 [(12, 7)])) .outOfMemory ∧
      Answers (runCommand 0x00000005 fresh) .invalidParameter :=
  ⟨⟨_, _, rfl, rfl, rfl⟩, ⟨_, _, rfl, rfl, rfl⟩, ⟨_, _, rfl, rfl, rfl⟩, ⟨_, _, rfl, rfl, rfl⟩, ⟨_, _, rfl, rfl, rfl⟩,
    ⟨_, _, rfl, rfl, rfl⟩⟩

/-- WritersOfTheRegisters: a REGISTER that makes an Unregistered block Active, and a command of each
other kind that answers a next state. -/
theorem witness_writers :
    fresh.active = false ∧ (∃ t, exec (.register true 2 4 2) fresh = .next t ∧ t.active = true) ∧
      (∃ t, exec .unregister fresh = .next t) ∧ (∃ t, exec (.push 0 1) (single .exact 4 4 3 3 []) = .next t) ∧
      ∃ t, exec .pop (single .exact 4 4 0 3 [(12, 7)]) = .next t :=
  ⟨rfl, ⟨_, rfl, rfl⟩, ⟨_, rfl⟩, ⟨_, rfl⟩, ⟨_, rfl⟩⟩

/-- IgnoredOperands: single-lane mode, and two DINs that agree below LEN = 1 and differ at it. -/
theorem witness_ignored :
    (single .exact 4 4 3 3 []).prioEn = false ∧
      (∀ k (hk : k < dataWidth), k < (1 : BitVec 16).toNat → (dinOfBytes [7, 8])[k] = (dinOfBytes [7, 9])[k]) ∧
      (dinOfBytes [7, 8]).toList.getD 1 0 ≠ (dinOfBytes [7, 9]).toList.getD 1 0 := by
  refine ⟨rfl, ?_, by decide⟩
  intro k hk h1
  have : k = 0 := by simpa using h1
  subst this
  rfl

/-- UnseenStoreIsUnobservable: two Active blocks that differ in the last store byte, outside the
configured region of 15 bytes. -/
theorem witness_unseen :
    (single .exact 5 3 3 3 [(0, 1)]).Inv ∧ (single .exact 5 3 3 3 [(0, 1), (15, 9)]).Inv ∧
      SameButUnseenStore (single .exact 5 3 3 3 [(0, 1)]) (single .exact 5 3 3 3 [(0, 1), (15, 9)]) :=
  ⟨⟨by decide, by decide, by decide, by decide, by decide⟩, ⟨by decide, by decide, by decide, by decide, by decide⟩,
    rfl, by decide⟩

/-- ResetMeetsTheInvariant: parameters at the ends of their ranges are legal. -/
theorem witness_params :
    Params.Legal ⟨1, 1, .exact, .noData⟩ ∧ Params.Legal ⟨255, 1, .legacyNext, .legacyOk⟩ ∧ Params.illustrative.Legal := by
  decide

/-- StepKeepsTheInvariant, StepNeverStops, EveryRunIsSafe: a step that runs a command. -/
theorem witness_step :
    (single .exact 4 4 0 3 [(12, 7)]).Inv ∧ ((single .exact 4 4 0 3 [(12, 7)]).withFetchWord 32 0x00000004).Inv ∧
      doutOf 4 (step ((single .exact 4 4 0 3 [(12, 7)]).withFetchWord 32 0x00000004)) = some [7, 0, 0, 0] :=
  ⟨inv_single_one, ⟨by decide, by decide, by decide, by decide, by decide⟩, by decide⟩

/-- StepRunsTheDecodedCommand, ResponseReachesTheRequester: a granted requester with a legal word, with
an illegal one, and a table word that decodes. -/
theorem witness_granted :
    (twoRequesters.setSchedule [.grant 1]).Inv ∧
      (twoRequesters.setSchedule [.grant 1]).outstanding 1 = some ⟨0x00000004, dinOfBytes []⟩ ∧
      decode 0x00000004 = .ok .pop ∧ decode 0x00000005 = .error (.reservedOpcode 5) ∧
      decodeTableWord 32 0x00000004 = some .pop ∧
      (twoRequesters.setSchedule [.grant 1]).requesters[1]? = some ⟨[⟨0x00000004, dinOfBytes []⟩], []⟩ :=
  ⟨⟨by decide, by decide, by decide, by decide, by decide⟩, rfl, by decide, by decide, by decide, rfl⟩

/-- IdleBlockHoldsItsState: an Active block with no requester. -/
theorem witness_idle :
    (single .exact 4 4 0 3 [(12, 7)]).schedule = [] ∧ ∀ k, (single .exact 4 4 0 3 [(12, 7)]).outstanding k = none :=
  ⟨rfl, fun _ => rfl⟩

/-- NoCommandWaits: a full lane, lanes that are all empty in each mode and setting of its third clause, and an
Active block with no requester. -/
theorem witness_no_wait :
    InSingle .exact (single .exact 4 4 2 3 [(12, 7)]) ∧ (single .exact 4 4 2 3 [(12, 7)]).PushGoesTo 9 0 ∧
      (4 : BitVec 16).toNat = (single .exact 4 4 2 3 [(12, 7)]).slotSize.toNat ∧
      (single .exact 4 4 2 3 [(12, 7)]).laneFull 0 = true ∧
    InSingle .exact (single .exact 4 4 3 3 []) ∧
      (∀ l < (single .exact 4 4 3 3 []).laneCount.toNat, (single .exact 4 4 3 3 []).laneEmpty l = true) ∧
    InPriority (prio .noData [3, 1] [3, 1] []) ∧
      (∀ l < (prio .noData [3, 1] [3, 1] []).laneCount.toNat, (prio .noData [3, 1] [3, 1] []).laneEmpty l = true) ∧
    InPriority (prio .legacyOk [0, 0] [0, 0] []) ∧
      (∀ l < (prio .legacyOk [0, 0] [0, 0] []).laneCount.toNat, (prio .legacyOk [0, 0] [0, 0] []).laneEmpty l = true) ∧
    (single .exact 4 4 2 3 [(12, 7)]).schedule = [] ∧ ∀ k, (single .exact 4 4 2 3 [(12, 7)]).outstanding k = none :=
  ⟨in_single_full, .inr (by decide), by decide, by decide, in_single_empty, by decide, in_prio_empty, by decide,
    in_prio_legacy_empty, by decide, rfl, fun _ => rfl⟩

/-- ResetInputUnregisters: the reset input pulsed while Active. -/
theorem witness_reset_input :
    (twoRequesters.setSchedule [.reset, .grant 0]).schedule = [.reset, .grant 0] ∧
      summary (step (twoRequesters.setSchedule [.reset, .grant 0])) =
        some ⟨false, false, [0, 0, 0], [0, 0, 0], [0, 0, 0], none⟩ := by decide

/-- EveryCommandIsAnswered, EitherOrderIsAdmitted: two requesters, one command each, no schedule. -/
theorem witness_two_requesters :
    twoRequesters.Inv ∧ twoRequesters.schedule = [] ∧ twoRequesters.pendingCount = 2 ∧
      twoRequesters.active = true ∧ twoRequesters.prioEn = false ∧ twoRequesters.params.popEmptyCheck = .exact ∧
      twoRequesters.laneEmpty 0 = true ∧ 2 ≤ twoRequesters.slotCount.toNat ∧
      (1 : BitVec 16).toNat ≤ twoRequesters.slotSize.toNat ∧ decode 0x00010003 = .ok (.push 0 1) ∧
      decode 0x00000004 = .ok .pop ∧
      twoRequesters.requesters =
        [⟨[⟨0x00010003, dinOfBytes [112]⟩], []⟩, ⟨[⟨0x00000004, dinOfBytes []⟩], []⟩] :=
  ⟨inv_two, rfl, by decide, rfl, rfl, rfl, by decide, by decide, by decide, by decide, by decide, rfl⟩

end Sys2Proof.Tests
end

section
/-! SUPPORT. The ring arithmetic of a lane (10_state.md R32 to R34), slots that do not overlap
(20_memory.md R52), and with them the queues the lanes make (O30, O33). -/

namespace Sys2Proof.Machine

@[simp] theorem slotCount_pushedState (l : Nat) (len : BitVec 16) (s : State) :
    (pushedState l len s).slotCount = s.slotCount := rfl

@[simp] theorem slotCount_servedState (l r : Nat) (s : State) : (servedState l r s).slotCount = s.slotCount := rfl

/-! ### Ring arithmetic -/

/-- A remainder by a number that goes in at most once: the form in which `omega` can use it. -/
theorem mod_eq_ite_of_lt_two_mul {a n : Nat} (h : a < 2 * n) : a % n = if a < n then a else a - n := by
  split
  · next hlt => exact Nat.mod_eq_of_lt hlt
  · next hge => rw [Nat.mod_eq_sub_mod (by omega), Nat.mod_eq_of_lt (by omega)]

section Ring
variable {s : State} {l : Nat} (hw : s.W l < s.slotCount.toNat) (hr : s.R l < s.slotCount.toNat)
include hw hr

/-- The occupancy (R33) by the two orders of the indices. -/
theorem occupancy_eq_ite :
    s.occupancy l = if s.R l ≤ s.W l then s.W l - s.R l else s.W l + s.slotCount.toNat - s.R l := by
  unfold State.occupancy
  rw [mod_eq_ite_of_lt_two_mul (by omega)]
  split_ifs <;> omega

theorem occupancy_lt_slotCount : s.occupancy l < s.slotCount.toNat := by
  rw [occupancy_eq_ite hw hr]
  split_ifs <;> omega

theorem occupancy_eq_zero_iff : s.occupancy l = 0 ↔ s.laneEmpty l = true := by
  rw [occupancy_eq_ite hw hr, laneEmpty_iff]
  split_ifs <;> omega

theorem occupancy_eq_pred_iff : s.occupancy l = s.slotCount.toNat - 1 ↔ s.laneFull l = true := by
  rw [occupancy_eq_ite hw hr, laneFull_iff, mod_eq_ite_of_lt_two_mul (by omega)]
  split_ifs <;> omega

/-- The slot after the youngest unread item is the one the next PUSH writes. -/
theorem slot_after_unread : (s.R l + s.occupancy l) % s.slotCount.toNat = s.W l := by
  rw [mod_eq_ite_of_lt_two_mul (by have := occupancy_lt_slotCount hw hr; omega), occupancy_eq_ite hw hr]
  split_ifs <;> omega

/-- No unread item stands in the slot the next PUSH writes. -/
theorem unread_slot_ne_write_slot {j : Nat} (hj : j < s.occupancy l) :
    (s.R l + j) % s.slotCount.toNat ≠ s.W l := by
  rw [occupancy_eq_ite hw hr] at hj
  rw [mod_eq_ite_of_lt_two_mul (by split at hj <;> omega)]
  split at hj <;> split_ifs <;> omega

/-- A PUSH on a lane that is not full raises its occupancy by 1 (R125). -/
theorem occupancy_pushedState (hl : l < s.widx.length) (hf : s.laneFull l = false) (len : BitVec 16) :
    (pushedState l len s).occupancy l = s.occupancy l + 1 := by
  have hne : (s.W l + 1) % s.slotCount.toNat ≠ s.R l := by simpa [State.laneFull] using hf
  have hW := W_pushedState (len := len) hl (by omega) l
  rw [if_pos rfl] at hW
  have hlt : (pushedState l len s).W l < s.slotCount.toNat := hW ▸ Nat.mod_lt _ (by omega)
  rw [occupancy_eq_ite hw hr, occupancy_eq_ite (s := pushedState l len s) hlt hr, hW, R_pushedState,
    slotCount_pushedState]
  rw [mod_eq_ite_of_lt_two_mul (by omega)] at hne ⊢
  split_ifs at hne ⊢ <;> omega

/-- Serving a lane that is not empty lowers its occupancy by 1 (R144, R155). -/
theorem occupancy_servedState (hl : l < s.ridx.length) (he : s.laneEmpty l = false) :
    s.occupancy l = (servedState l (s.R l) s).occupancy l + 1 := by
  have hne : s.W l ≠ s.R l := by simpa [State.laneEmpty] using he
  have hR := R_servedState (r := s.R l) hl (by omega) l
  rw [if_pos rfl] at hR
  have hlt : (servedState l (s.R l) s).R l < s.slotCount.toNat := hR ▸ Nat.mod_lt _ (by omega)
  have hw' : (servedState l (s.R l) s).W l < s.slotCount.toNat := (W_servedState ..).symm ▸ hw
  rw [occupancy_eq_ite hw hr, occupancy_eq_ite (s := servedState l (s.R l) s) hw' hlt, hR, W_servedState,
    slotCount_servedState, mod_eq_ite_of_lt_two_mul (by omega)]
  split_ifs <;> omega

end Ring

/-- Settles O30, by the two orders the indices of a lane can have. -/
theorem occupancyEmptyFull : Obligations.OccupancyEmptyFull := by
  intro s l hi ha hl
  obtain ⟨hw, hr⟩ := hi.indices_lt ha hl
  exact ⟨occupancy_lt_slotCount hw hr, occupancy_eq_zero_iff hw hr, occupancy_eq_pred_iff hw hr⟩

/-! ### Slots -/

/-- Two slots of which one stands before the other do not overlap (R51, R52). -/
theorem slot_end_le_of_lt {s : State} {l i l' i' : Nat}
    (h : l * s.slotCount.toNat + i < l' * s.slotCount.toNat + i') :
    s.slotAddr l i + s.slotSize.toNat ≤ s.slotAddr l' i' := by
  unfold State.slotAddr
  rw [← Nat.succ_mul]
  exact Nat.mul_le_mul_right _ h

/-- The slots of an earlier lane stand before those of a later one. -/
theorem slot_number_lt_of_lane_lt {n l i l' : Nat} (hl : l < l') (hi : i < n) (i' : Nat) :
    l * n + i < l' * n + i' :=
  calc l * n + i < (l + 1) * n := by rw [Nat.succ_mul]; omega
    _ ≤ l' * n := Nat.mul_le_mul_right n hl
    _ ≤ l' * n + i' := Nat.le_add_right _ _

/-- Different slots do not overlap (R52). -/
theorem slots_disjoint {s : State} {l i l' i' : Nat} (hi : i < s.slotCount.toNat) (hi' : i' < s.slotCount.toNat)
    (hne : ¬(l = l' ∧ i = i')) :
    s.slotAddr l i + s.slotSize.toNat ≤ s.slotAddr l' i' ∨ s.slotAddr l' i' + s.slotSize.toNat ≤ s.slotAddr l i := by
  rcases Nat.lt_trichotomy l l' with hl | rfl | hl
  · exact .inl (slot_end_le_of_lt (slot_number_lt_of_lane_lt hl hi i'))
  · rcases Nat.lt_or_gt_of_ne (fun e => hne ⟨rfl, e⟩) with h | h
    · exact .inl (slot_end_le_of_lt (by omega))
    · exact .inr (slot_end_le_of_lt (by omega))
  · exact .inr (slot_end_le_of_lt (slot_number_lt_of_lane_lt hl hi' i))

/-- A write leaves the bytes of a range it does not meet. -/
theorem Memory.readBytes_writeBytes_of_disjoint (m : Memory) {a b n : Nat} {bs : List Byte}
    (h : a + n ≤ b ∨ b + bs.length ≤ a) : (m.writeBytes b bs).readBytes a n = m.readBytes a n :=
  Memory.readBytes_congr fun _ hk => Memory.read_writeBytes_of_outside m bs (by omega)

/-- A write at the start of a range leaves the written bytes, then the range's old tail. -/
theorem Memory.readBytes_writeBytes_same_start {m : Memory} (hm : m.wf) {a n : Nat} {bs : List Byte}
    (h : bs.length ≤ n) : (m.writeBytes a bs).readBytes a n = pushedItem bs (m.readBytes a n) := by
  refine List.ext_getElem (by simp [pushedItem]; omega) fun k h1 h2 => ?_
  rw [Memory.length_readBytes] at h1
  simp only [pushedItem, Memory.getElem_readBytes, Memory.read_writeBytes hm, List.getElem_append,
    List.getElem_drop]
  by_cases hk : k < bs.length
  · simp [hk]
  · rw [if_neg (by omega), dif_neg hk]
    congr 1; omega

theorem length_payload_le (s : State) (len : BitVec 16) : (s.payload len).length ≤ len.toNat :=
  List.length_take_le _ _

/-- A PUSH leaves every slot but the one it writes (R124). -/
theorem slotBytes_pushedState_of_ne {s : State} {l k i : Nat} {len : BitVec 16}
    (hlen : len.toNat ≤ s.slotSize.toNat) (hw : s.W l < s.slotCount.toNat) (hi : i < s.slotCount.toNat)
    (hne : ¬(k = l ∧ i = s.W l)) : (pushedState l len s).slotBytes k i = s.slotBytes k i := by
  have hp := length_payload_le s len
  refine Memory.readBytes_writeBytes_of_disjoint s.store ?_
  show s.slotAddr k i + s.slotSize.toNat ≤ s.slotAddr l (s.W l) ∨ _ ≤ s.slotAddr k i
  have hd := slots_disjoint hi hw hne
  omega

/-- The slot a PUSH writes holds the payload and the stale tail (R123). -/
theorem slotBytes_pushedState_same {s : State} {l : Nat} {len : BitVec 16} (hm : s.store.wf)
    (hlen : len.toNat ≤ s.slotSize.toNat) :
    (pushedState l len s).slotBytes l (s.W l) = pushedItem (s.payload len) (s.slotBytes l (s.W l)) :=
  Memory.readBytes_writeBytes_same_start hm (Nat.le_trans (length_payload_le s len) hlen)

/-- DOUT after a slot is served begins with the slot's bytes (R141, R151). -/
theorem take_dout_servedState (l r : Nat) (s : State) :
    (servedState l r s).dout.toList.take s.slotSize.toNat = s.slotBytes l r := by
  have hss : s.slotSize.toNat ≤ dataWidth := Nat.le_of_lt_succ s.slotSize.isLt
  refine List.ext_getElem (by simpa [State.slotBytes] using hss) fun k h1 h2 => ?_
  simp only [State.slotBytes, Memory.length_readBytes] at h2
  have hd := dout_servedState l r s k (Nat.lt_of_lt_of_le h2 hss)
  rw [if_pos h2] at hd
  simpa [State.slotBytes] using hd

/-! ### The queues -/

/-- A lane's queue is determined by its indices and its slots. -/
theorem laneItems_congr {s t : State} {k : Nat} (hc : t.slotCount = s.slotCount) (hw : t.W k = s.W k)
    (hr : t.R k = s.R k)
    (hb : ∀ j < s.occupancy k,
      t.slotBytes k ((s.R k + j) % s.slotCount.toNat) = s.slotBytes k ((s.R k + j) % s.slotCount.toNat)) :
    t.laneItems k = s.laneItems k := by
  unfold State.laneItems
  rw [show t.occupancy k = s.occupancy k by unfold State.occupancy; rw [hc, hw, hr], hr, hc]
  exact List.map_congr_left fun j hj => hb j (List.mem_range.1 hj)

section Push
variable {s : State} {l : Nat} {len : BitVec 16} (hw : s.W l < s.slotCount.toNat)
  (hlen : len.toNat ≤ s.slotSize.toNat) (hl : l < s.widx.length)
include hw hlen hl

/-- A PUSH adds its item at the end of its lane's queue (R121, R123). -/
theorem laneItems_pushedState_same (hr : s.R l < s.slotCount.toNat) (hm : s.store.wf)
    (hf : s.laneFull l = false) :
    (pushedState l len s).laneItems l =
      s.laneItems l ++ [pushedItem (s.payload len) (s.slotBytes l (s.W l))] := by
  unfold State.laneItems
  rw [occupancy_pushedState hw hr hl hf, List.range_succ, List.map_append]
  congr 1
  · refine List.map_congr_left fun j hj => ?_
    exact slotBytes_pushedState_of_ne hlen hw (Nat.mod_lt _ (Nat.zero_lt_of_lt hw))
      fun h => unread_slot_ne_write_slot hw hr (List.mem_range.1 hj) h.2
  · rw [← slotBytes_pushedState_same hm hlen]
    simp only [List.map_cons, List.map_nil]
    exact congrArg (fun i => [(pushedState l len s).slotBytes l i]) (slot_after_unread hw hr)

/-- A PUSH leaves the queue of every other lane. -/
theorem laneItems_pushedState_of_ne {k : Nat} (hk : k ≠ l) :
    (pushedState l len s).laneItems k = s.laneItems k :=
  laneItems_congr rfl (by rw [W_pushedState hl (by omega), if_neg hk]) rfl fun _ _ =>
    slotBytes_pushedState_of_ne hlen hw (Nat.mod_lt _ (by omega)) fun h => hk h.1

end Push

section Pop
variable {s : State} {l : Nat} (hr : s.R l < s.slotCount.toNat) (hl : l < s.ridx.length)
include hr hl

/-- Serving a lane that is not empty takes the first item of its queue into DOUT (R141, R151). -/
theorem laneItems_servedState_same (hw : s.W l < s.slotCount.toNat) (he : s.laneEmpty l = false) :
    s.laneItems l =
      (servedState l (s.R l) s).dout.toList.take s.slotSize.toNat :: (servedState l (s.R l) s).laneItems l := by
  have hR := R_servedState (r := s.R l) hl (by omega) l
  rw [if_pos rfl] at hR
  rw [take_dout_servedState]
  unfold State.laneItems
  rw [occupancy_servedState hw hr hl he, List.range_succ_eq_map, List.map_cons, List.map_map, hR]
  congr 1
  · rw [Nat.add_zero, Nat.mod_eq_of_lt hr]
  · refine List.map_congr_left fun j _ => ?_
    show s.slotBytes l _ = s.slotBytes l (((s.R l + 1) % s.slotCount.toNat + j) % s.slotCount.toNat)
    rw [Nat.mod_add_mod]
    congr 2; omega

/-- Serving a lane leaves the queue of every other lane. -/
theorem laneItems_servedState_of_ne {k : Nat} (hk : k ≠ l) :
    (servedState l (s.R l) s).laneItems k = s.laneItems k :=
  laneItems_congr rfl (W_servedState ..) (by rw [R_servedState hl (by omega), if_neg hk])
    fun _ _ => rfl

end Pop

/-- A POP of an Active block serves the lane the scanner stands at, in priority mode, under EXACT, and
wherever it returns Ok (R144). -/
theorem State.Inv.pop_serves_scanned_lane {s t : State} (hi : s.Inv) (ha : s.active = true) {l : Nat}
    (hs : s.ScanServes l) (h : execPop s = .next t)
    (hok : s.prioEn = true ∨ s.params.popEmptyCheck = .exact ∨ ∃ r, t.response = some r ∧ r.status = .ok) :
    t = servedState l (s.R l) s := by
  cases hp : s.prioEn with
  | true => rw [hi.execPop_serves ha hp hs] at h; cases h; rfl
  | false =>
    obtain ⟨hl, hne, -⟩ := hs
    obtain ⟨hone, -⟩ := hi.active ha
    have hlc : s.laneCount.toNat = 1 := by rw [hone hp]; rfl
    obtain rfl : l = 0 := by omega
    rw [hi.execPop_single ha hp] at h
    split at h
    · next htest =>
      obtain rfl := answerWithDout_eq_next.1 h
      rcases hok with hprio | hexact | ⟨r, hr, hrok⟩
      · simp [hp] at hprio
      · rw [hexact] at htest
        simp_all [singleEmptyTest, State.laneEmpty]
      · cases hr; cases hrok
    · cases h; rfl

/-- Settles O33: a PUSH that is not refused leaves `pushedState`, a POP that serves leaves `servedState`,
and the lemmas above say what these do to each queue. -/
theorem lanesAreFifoQueues : Obligations.LanesAreFifoQueues := by
  intro s t hi ha
  obtain ⟨hwl, hrl⟩ := hi.lane_registers ha
  refine ⟨fun lane len l hlen hgo hf hpush => ?_, fun l hs hpop hok => ?_⟩
  · have hsel := selectLane_eq_some.2 hgo
    have hl := hi.selected_lane ha hsel
    obtain ⟨hw, hr⟩ := hi.indices_lt ha hl
    have hpush : execPush lane len s = .next t := hpush
    rw [hi.execPush_eq ha hlen hsel, hf] at hpush
    cases hpush
    exact ⟨laneItems_pushedState_same hw hlen (by omega) hr hi.store.1 hf,
      fun k _ hk => laneItems_pushedState_of_ne hw hlen (by omega) hk⟩
  · obtain rfl := hi.pop_serves_scanned_lane ha hs hpop hok
    obtain ⟨hl, hne, -⟩ := hs
    obtain ⟨hw, hr⟩ := hi.indices_lt ha hl
    exact ⟨laneItems_servedState_same hr (by omega) hw hne,
      fun k _ hk => laneItems_servedState_of_ne hr (by omega) hk⟩

end Sys2Proof.Machine
end

section
/-! SUPPORT. What a command can do, all commands at once, and what each state operation keeps of the
invariant of 10_state.md R36 and R37 (O38, O42, O43, O44). -/

namespace Sys2Proof.Machine

/-! ### REGISTER and UNREGISTER clear every index register (R27) -/

@[simp] theorem W_registeredState (pe : Bool) (level scount ssize : BitVec 8) (s : State) (k : Nat) :
    (registeredState pe level scount ssize s).W k = 0 := by
  simp only [registeredState, W_setResponse, W_zeroStore, W_configure]

@[simp] theorem R_registeredState (pe : Bool) (level scount ssize : BitVec 8) (s : State) (k : Nat) :
    (registeredState pe level scount ssize s).R k = 0 := by
  simp only [registeredState, R_setResponse, R_zeroStore, R_configure]

@[simp] theorem slotCount_registeredState (pe : Bool) (level scount ssize : BitVec 8) (s : State) :
    (registeredState pe level scount ssize s).slotCount = scount := rfl

@[simp] theorem W_unregisteredState (s : State) (k : Nat) : (unregisteredState s).W k = 0 := by
  simp only [unregisteredState, W_setResponse, W_zeroStore, W_configure]

@[simp] theorem R_unregisteredState (s : State) (k : Nat) : (unregisteredState s).R k = 0 := by
  simp only [unregisteredState, R_setResponse, R_zeroStore, R_configure]

/-! ### The effect of a command -/

/-- What command `i` leaves of `s` where it answers a next state: the response alone, or the one effect
that its kind of command has, with the checks it passed. -/
inductive ExecEffect (s : State) : Instr → State → Prop
  | answered {i : Instr} (not_unregister : i ≠ .unregister) (r : Response) : ExecEffect s i (s.setResponse r)
  | registered {pe : Bool} {level scount ssize : BitVec 8} (inactive : s.active = false)
      (lanes_pos : ¬(pe = true ∧ level = 0)) (slots_pos : scount ≠ 0) (size_pos : ssize ≠ 0)
      (lanes_fit : (requestedLanes pe level).toNat ≤ s.params.maxLanes)
      (region_fits : regionSize (requestedLanes pe level) scount ssize ≤ s.params.storeBytes) :
      ExecEffect s (.register pe level scount ssize) (registeredState pe level scount ssize s)
  | unregistered : ExecEffect s .unregister (unregisteredState s)
  | pushed {lane : BitVec 8} {len : BitVec 16} {l : Nat} (active : s.active = true)
      (len_le : len.toNat ≤ s.slotSize.toNat) (goes : s.PushGoesTo lane l) (widx_exists : l < s.widx.length)
      (ridx_exists : l < s.ridx.length) (slots_pos : 1 ≤ s.slotCount.toNat) (not_full : s.laneFull l = false)
      (fits : s.slotAddr l (s.W l) + (s.payload len).length ≤ s.params.storeBytes) :
      ExecEffect s (.push lane len) (pushedState l len s)
  | served {l : Nat} (active : s.active = true)
      (lane : (s.prioEn = false ∧ l = 0) ∨ (s.prioEn = true ∧ s.ScanServes l)) (widx_exists : l < s.widx.length)
      (ridx_exists : l < s.ridx.length) (slots_pos : 1 ≤ s.slotCount.toNat)
      (fits : s.slotAddr l (s.R l) + s.slotSize.toNat ≤ s.params.storeBytes) :
      ExecEffect s .pop (servedState l (s.R l) s)

/-- Every command that answers a next state has one of these effects. -/
theorem exec_effect {i : Instr} {s t : State} (h : exec i s = .next t) : ExecEffect s i t := by
  cases i with
  | register pe level scount ssize =>
    have h : execRegister pe level scount ssize s = .next t := h
    rcases execRegister_cases pe level scount ssize s with
      ⟨-, he⟩ | ⟨-, -, -, -, -, he⟩ | ⟨h1, h2, h3, h4, h5, h6, he⟩ <;> (rw [he] at h; cases h)
    · exact .answered (by nofun) _
    · exact .answered (by nofun) _
    · exact .registered h1 h2 h3 h4 h5 h6
  | unregister => cases h; exact .unregistered
  | push lane len =>
    rcases execPush_next h with ⟨-, rfl⟩ | ⟨l, ha, hlen, hs, hp⟩
    · exact .answered (by nofun) _
    · obtain ⟨hw, hr, hc, ⟨-, rfl⟩ | ⟨hf, hb, rfl⟩⟩ := pushLane_next hp
      · exact .answered (by nofun) _
      · exact .pushed ha hlen (selectLane_eq_some.1 hs) hw hr hc hf hb
  | pop =>
    rcases execPop_next h with ⟨-, rfl⟩ | ⟨ha, hp, hs⟩ | ⟨ha, hp, hs⟩
    · exact .answered (by nofun) _
    · obtain ⟨hw, hr, hc, ⟨-, rfl⟩ | ⟨-, hv⟩⟩ := popSingle_next hs
      · exact .answered (by nofun) _
      · obtain ⟨-, hb, rfl⟩ := serveSlot_next hv
        exact .served ha (.inl ⟨hp, rfl⟩) hw hr hc hb
    · rcases popPriority_next hs with ⟨-, rfl⟩ | ⟨l, hl, hw, hr, hne, hlt, hv⟩
      · exact .answered (by nofun) _
      · obtain ⟨hc, hb, rfl⟩ := serveSlot_next hv
        exact .served ha (.inr ⟨hp, hl, hne, hlt⟩) hw hr hc hb

/-- Settles O38, by the effect of the command. -/
theorem writersOfTheRegisters : Obligations.WritersOfTheRegisters := by
  intro i s t h
  refine ⟨(exec_surroundings h).1, ?_⟩
  cases exec_effect h with
  | answered hu r =>
    exact ⟨fun e => absurd e hu, fun h0 h1 => absurd (h0.symm.trans h1) nofun,
      fun _ => ⟨rfl, rfl, rfl, rfl, rfl⟩, fun _ => rfl⟩
  | registered =>
    refine ⟨nofun, fun _ _ => ⟨_, _, _, _, rfl⟩, ?_, fun _ => rfl⟩
    rintro (h | ⟨_, _, h⟩) <;> cases h
  | unregistered =>
    refine ⟨fun _ => rfl, fun _ h1 => absurd h1 nofun, ?_, fun _ => rfl⟩
    rintro (h | ⟨_, _, h⟩) <;> cases h
  | pushed ha =>
    exact ⟨nofun, fun h0 _ => absurd (h0.symm.trans ha) nofun, fun _ => ⟨rfl, rfl, rfl, rfl, rfl⟩, fun _ => rfl⟩
  | served ha =>
    exact ⟨nofun, fun h0 _ => absurd (h0.symm.trans ha) nofun, fun _ => ⟨rfl, rfl, rfl, rfl, rfl⟩,
      fun h => absurd rfl h⟩

/-! ### Reset -/

/-- Settles O42. -/
theorem resetValues : Obligations.ResetValues :=
  ⟨fun p rs es n => ⟨rfl, rfl, rfl, rfl, rfl, List.length_replicate, List.length_replicate,
    fun l => ⟨W_resetWith p rs es n l, R_resetWith p rs es n l⟩⟩, _, _, rfl⟩

/-- Power-on reset with legal parameters meets the invariant (R37, R200). -/
theorem inv_resetWith {p : Params} (hp : p.Legal) (rs : List Requester) (es : List Event) (n : Nat) :
    (State.resetWith p rs es n).Inv where
  params := hp
  files := ⟨List.length_replicate, List.length_replicate⟩
  store := ⟨Memory.wf_nil, nofun⟩
  active := nofun
  unregistered _ := ⟨rfl, rfl, rfl, rfl, fun l _ => ⟨W_resetWith p rs es n l, R_resetWith p rs es n l⟩⟩

/-- Settles O43; the parameters of `State.reset` are legal. -/
theorem resetMeetsTheInvariant : Obligations.ResetMeetsTheInvariant :=
  ⟨inv_resetWith (by decide) [] [] 0, fun _ rs es n hp => inv_resetWith hp rs es n⟩

/-! ### The invariant, operation by operation -/

/-- Both index register files replaced: what `setWidx` and `setRidx` are cases of. -/
def State.setIndices (s : State) (w r : List Index) : State := { s with widx := w, ridx := r }

namespace State.Inv
variable {s : State} (h : s.Inv)
include h

theorem setResponse (r : Response) : (s.setResponse r).Inv :=
  h.of_block_eq rfl rfl rfl rfl rfl rfl rfl rfl rfl

theorem setDout (d : DataVec) : (s.setDout d).Inv :=
  h.of_block_eq rfl rfl rfl rfl rfl rfl rfl rfl rfl

theorem setSchedule (es : List Event) : (s.setSchedule es).Inv :=
  h.of_block_eq rfl rfl rfl rfl rfl rfl rfl rfl rfl

theorem setRequesters (rs : List Requester) : (s.setRequesters rs).Inv :=
  h.of_block_eq rfl rfl rfl rfl rfl rfl rfl rfl rfl

theorem draw : s.draw.Inv :=
  h.of_block_eq rfl rfl rfl rfl rfl rfl rfl rfl rfl

theorem acceptRequest (k : Nat) (q : Request) : (acceptRequest k q s).Inv :=
  h.of_block_eq rfl rfl rfl rfl rfl rfl rfl rfl rfl

theorem deliver (k : Nat) : (deliver k s).Inv := by
  obtain ⟨rs, e⟩ := deliver_eq k s
  exact e ▸ h.setRequesters rs

theorem setStore {m : Memory} (hm : m.wf) (hb : ∀ c ∈ m, c.1 < s.params.storeBytes) : (s.setStore m).Inv :=
  ⟨h.params, h.files, ⟨hm, hb⟩, h.active, h.unregistered⟩

/-- Index registers replaced: while Active the invariant asks for the files' sizes, for indices below
SLOT_COUNT in the configured lanes, and for no change in the others (R36). -/
theorem setIndices (ha : s.active = true) {w r : List Index} (hw : w.length = s.widx.length)
    (hr : r.length = s.ridx.length)
    (hin : ∀ k < s.laneCount.toNat,
      (s.setIndices w r).W k < s.slotCount.toNat ∧ (s.setIndices w r).R k < s.slotCount.toNat)
    (hout : ∀ k, s.laneCount.toNat ≤ k → (s.setIndices w r).W k = s.W k ∧ (s.setIndices w r).R k = s.R k) :
    (s.setIndices w r).Inv := by
  refine ⟨h.params, ⟨hw.trans h.files.1, hr.trans h.files.2⟩, h.store, fun _ => ?_,
    fun h0 => absurd (ha.symm.trans h0) nofun⟩
  obtain ⟨h1, h2, h3, h4, h5, h6, -, hzero⟩ := h.active ha
  refine ⟨h1, h2, h3, h4, h5, h6, hin, fun k hk hkl => ?_⟩
  rw [(hout k hkl).1, (hout k hkl).2]
  exact hzero k hk hkl

/-- A configured lane's WIDX may take any value below SLOT_COUNT (R36). -/
theorem setWidx (ha : s.active = true) {l v : Nat} (hl : l < s.laneCount.toNat) (hv : v < s.slotCount.toNat) :
    (s.setWidx l v).Inv := by
  have hc := s.slotCount.isLt
  have hW := W_setWidx (v := v) (Nat.lt_of_lt_of_le hl (h.lane_registers ha).1) (by omega)
  refine h.setIndices ha (List.length_set ..) rfl (fun k hk => ?_) fun k hk => ⟨?_, rfl⟩
  · refine ⟨(hW k).trans_lt ?_, (h.indices_lt ha hk).2⟩
    split
    · exact hv
    · exact (h.indices_lt ha hk).1
  · exact (hW k).trans (if_neg (by omega))

/-- A configured lane's RIDX may take any value below SLOT_COUNT (R36). -/
theorem setRidx (ha : s.active = true) {l v : Nat} (hl : l < s.laneCount.toNat) (hv : v < s.slotCount.toNat) :
    (s.setRidx l v).Inv := by
  have hc := s.slotCount.isLt
  have hR := R_setRidx (v := v) (Nat.lt_of_lt_of_le hl (h.lane_registers ha).2) (by omega)
  refine h.setIndices ha rfl (List.length_set ..) (fun k hk => ?_) fun k hk => ⟨rfl, ?_⟩
  · refine ⟨(h.indices_lt ha hk).1, (hR k).trans_lt ?_⟩
    split
    · exact hv
    · exact (h.indices_lt ha hk).2
  · exact (hR k).trans (if_neg (by omega))

theorem zeroStore (n : Nat) : (s.zeroStore n).Inv :=
  h.setStore (Memory.wf_zeroFill h.store.1 0 n) fun c hc => h.store.2 c (Memory.mem_zeroFill hc)

end State.Inv

/-- A PUSH that is not refused keeps the invariant. -/
theorem State.Inv.pushedState {s : State} (h : s.Inv) (ha : s.active = true) {l : Nat} {len : BitVec 16}
    (hl : l < s.laneCount.toNat) (hb : s.slotAddr l (s.W l) + (s.payload len).length ≤ s.params.storeBytes) :
    (pushedState l len s).Inv := by
  have hstore := h.setStore (Memory.wf_writeBytes h.store.1 (s.slotAddr l (s.W l)) (s.payload len)) fun c hc =>
    (Memory.mem_writeBytes hc).elim (fun h1 => Nat.lt_of_lt_of_le h1 hb) (h.store.2 c)
  exact (hstore.setWidx ha hl (Nat.mod_lt _ (Nat.zero_lt_of_lt (h.indices_lt ha hl).1))).setResponse _

/-- Serving a configured lane keeps the invariant. -/
theorem State.Inv.servedState {s : State} (h : s.Inv) (ha : s.active = true) {l : Nat}
    (hl : l < s.laneCount.toNat) (r : Nat) : (servedState l r s).Inv :=
  ((h.setDout (overlay (s.store.readBytes (s.slotAddr l r) s.slotSize.toNat) s.dout)).setRidx ha hl
    (Nat.mod_lt _ (Nat.zero_lt_of_lt (h.indices_lt ha hl).1))).setResponse _

/-- REGISTER's checks are what R36 asks of a configuration. -/
theorem State.Inv.registeredState {s : State} (h : s.Inv) {pe : Bool} {level scount ssize : BitVec 8}
    (hl : ¬(pe = true ∧ level = 0)) (hc : scount ≠ 0) (hz : ssize ≠ 0)
    (hfit : (requestedLanes pe level).toNat ≤ s.params.maxLanes)
    (hregion : regionSize (requestedLanes pe level) scount ssize ≤ s.params.storeBytes) :
    (registeredState pe level scount ssize s).Inv := by
  have hlanes : requestedLanes pe level ≠ 0 := by
    cases pe with
    | true => exact fun e => hl ⟨rfl, e⟩
    | false => exact (by decide : (1 : BitVec 8) ≠ 0)
  refine ⟨h.params, ⟨List.length_replicate, List.length_replicate⟩, (h.zeroStore _).store, fun _ => ?_, nofun⟩
  refine ⟨fun hpe => ?_, BitVec.toNat_pos_of_ne_zero hlanes, hfit, BitVec.toNat_pos_of_ne_zero hc,
    BitVec.toNat_pos_of_ne_zero hz, hregion, fun k _ => ?_, fun k _ _ => by simp⟩
  · obtain rfl : pe = false := hpe
    rfl
  · simpa using BitVec.toNat_pos_of_ne_zero hc

/-- UNREGISTER leaves the zero configuration of R37. -/
theorem State.Inv.unregisteredState {s : State} (h : s.Inv) : (unregisteredState s).Inv :=
  ⟨h.params, ⟨List.length_replicate, List.length_replicate⟩, (h.zeroStore _).store, nofun,
    fun _ => ⟨rfl, rfl, rfl, rfl, fun l _ => by simp⟩⟩

/-! ### Every step keeps the invariant -/

/-- A command that answers a next state keeps the invariant, by its effect. -/
theorem exec_preserves_inv {i : Instr} {s t : State} (h : s.Inv) (he : exec i s = .next t) : t.Inv := by
  cases exec_effect he with
  | answered _ r => exact h.setResponse r
  | registered _ hl hc hz hfit hregion => exact h.registeredState hl hc hz hfit hregion
  | unregistered => exact h.unregisteredState
  | pushed ha _ hgo _ _ _ _ hb => exact h.pushedState ha (h.selected_lane ha (selectLane_eq_some.2 hgo)) hb
  | served ha hlane =>
    obtain ⟨-, hpos, -⟩ := h.active ha
    refine h.servedState ha ?_ _
    rcases hlane with ⟨-, rfl⟩ | ⟨-, hl, -⟩
    · exact hpos
    · exact hl

theorem runCommand_preserves_inv {w : Word} {s t : State} (h : s.Inv) (hr : runCommand w s = .next t) : t.Inv := by
  cases hd : decode w with
  | ok i => exact exec_preserves_inv h (runCommand_ok hd s ▸ hr)
  | error e =>
    rw [runCommand_illegal hd] at hr
    cases hr
    exact h.setResponse _

/-- Settles O44: a step holds the block, resets it, or runs one command and delivers its response, and each
keeps the invariant. -/
theorem stepKeepsTheInvariant : Obligations.StepKeepsTheInvariant := by
  intro s t h hst
  rcases step_cases s with ⟨es, he⟩ | ⟨es, he⟩ | ⟨k, q, s1, hs1, -, he⟩ <;> rw [he] at hst
  · cases hst
    exact h.setSchedule es
  · cases hst
    exact inv_resetWith h.params _ _ _
  · obtain ⟨u, hu, rfl⟩ := deliverOutcome_next hst
    have h1 : s1.Inv := by
      rcases hs1 with ⟨es, rfl⟩ | rfl | rfl
      · exact h.setSchedule es
      · exact h
      · exact h.draw
    exact (runCommand_preserves_inv (h1.acceptRequest k q) hu).deliver k

end Sys2Proof.Machine
end

section
/-! SUPPORT. Lanes with nothing to serve (10_state.md R35; O31), and what no command reads: the
surroundings of the block (R31; 60_exceptions.md R185, R188; O40) and the store bytes outside the
configured region (R29, R201; O41). -/

namespace Sys2Proof.Machine

/-! ### One slot -/

/-- With one slot every index is 0, so every configured lane is full and empty at once (R35). -/
theorem State.Inv.full_and_empty_of_one_slot {s : State} (h : s.Inv) (ha : s.active = true)
    (hc : s.slotCount = 1) {l : Nat} (hl : l < s.laneCount.toNat) :
    s.laneFull l = true ∧ s.laneEmpty l = true := by
  obtain ⟨hw, hr⟩ := h.indices_lt ha hl
  have hone : s.slotCount.toNat = 1 := by rw [hc]; rfl
  rw [laneFull_iff, laneEmpty_iff, hone, Nat.mod_one]
  omega

/-- With every index 0 and one slot the single-lane empty test holds under both settings (R146). -/
theorem singleEmptyTest_of_one_slot (c : PopEmptyCheck) : singleEmptyTest c 0 0 ((0 + 1) % 1) = true := by
  cases c <;> rfl

/-- Settles O31: the lane a PUSH selects is full, and the lanes a POP looks at are empty. -/
theorem oneSlotLaneHoldsNothing : Obligations.OneSlotLaneHoldsNothing := by
  intro s hi ha hc
  have hboth := fun l hl => hi.full_and_empty_of_one_slot ha hc (l := l) hl
  have hsingle : s.prioEn = false → execPop s = answerWithDout .noData s := fun hp => by
    obtain ⟨-, hpos, -⟩ := hi.active ha
    obtain ⟨hw, hr⟩ := hi.indices_lt ha hpos
    have hone : s.slotCount.toNat = 1 := by rw [hc]; rfl
    rw [hi.execPop_single ha hp, show s.W 0 = 0 by omega, show s.R 0 = 0 by omega, hone,
      if_pos (singleEmptyTest_of_one_slot _)]
  refine ⟨hboth, fun lane len l hlen hgo => ?_, ?_, fun hp => ⟨_, _, hsingle hp, rfl, rfl⟩⟩
  · have hsel := selectLane_eq_some.2 hgo
    refine ⟨_, _, (hi.execPush_eq ha hlen hsel).trans (if_pos ?_), rfl, rfl⟩
    exact (hboth l (hi.selected_lane ha hsel)).1
  · cases hp : s.prioEn with
    | false => exact ⟨_, hsingle hp⟩
    | true => exact ⟨_, hi.execPop_all_empty ha hp fun l hl => (hboth l hl).2⟩

/-! ### What refuses a PUSH and a POP, and where the scanner finds nothing -/

/-- A PUSH that fails one of its three checks answers InvalidParameter (R121). -/
theorem execPush_refused {s : State} {lane : BitVec 8} {len : BitVec 16}
    (h : ¬(s.active = true ∧ len.toNat ≤ s.slotSize.toNat ∧ ∃ l, s.selectLane lane = some l)) :
    execPush lane len s = answer .invalidParameter s := by
  unfold execPush
  split_ifs with ha hlen
  · rfl
  · cases hsel : s.selectLane lane with
    | none => rfl
    | some l => exact absurd ⟨ha, Nat.le_of_not_lt hlen, l, hsel⟩ h
  · rfl

theorem execPop_inactive {s : State} (h : s.active = false) :
    execPop s = answerWithDout .invalidParameter s := by
  unfold execPop
  rw [if_neg (by simp [h])]

/-- Either the scanner has a lane to serve, the least that is not empty, or every lane is empty. -/
theorem State.scanServes_or_all_empty (s : State) :
    (∃ l, s.ScanServes l) ∨ ∀ l < s.laneCount.toNat, s.laneEmpty l = true := by
  by_cases h : ∃ l, l < s.laneCount.toNat ∧ s.laneEmpty l = false
  · obtain ⟨hl, hne⟩ := Nat.find_spec h
    refine .inl ⟨Nat.find h, hl, hne, fun j hj => ?_⟩
    have hmin := Nat.find_min h hj
    simpa [Nat.lt_trans hj hl] using hmin
  · exact .inr fun l hl => by simpa [hl] using fun hne => h ⟨l, hl, hne⟩

/-! ### The surroundings -/

/-- The state `s` in other surroundings: requesters, schedule and count of free draws. -/
def State.surround (s : State) (rs : List Requester) (es : List Event) (n : Nat) : State :=
  { s with requesters := rs, schedule := es, draws := n }

/-- The state `s` in other surroundings and with another last response: what no command may read. -/
def State.unread (s : State) (rs : List Requester) (es : List Event) (n : Nat) (x : Option Response) : State :=
  { s with requesters := rs, schedule := es, draws := n, response := x }

section Surroundings
variable (s : State) (rs : List Requester) (es : List Event) (n : Nat) (x : Option Response)

@[simp] theorem params_unread : (s.unread rs es n x).params = s.params := rfl
@[simp] theorem active_unread : (s.unread rs es n x).active = s.active := rfl
@[simp] theorem prioEn_unread : (s.unread rs es n x).prioEn = s.prioEn := rfl
@[simp] theorem laneCount_unread : (s.unread rs es n x).laneCount = s.laneCount := rfl
@[simp] theorem slotSize_unread : (s.unread rs es n x).slotSize = s.slotSize := rfl
@[simp] theorem widx_unread : (s.unread rs es n x).widx = s.widx := rfl
@[simp] theorem ridx_unread : (s.unread rs es n x).ridx = s.ridx := rfl
@[simp] theorem R_unread (l : Nat) : (s.unread rs es n x).R l = s.R l := rfl
@[simp] theorem slotAddr_unread (l i : Nat) : (s.unread rs es n x).slotAddr l i = s.slotAddr l i := rfl
@[simp] theorem nextIndex_unread (i : Nat) : (s.unread rs es n x).nextIndex i = s.nextIndex i := rfl
@[simp] theorem payload_unread (len : BitVec 16) : (s.unread rs es n x).payload len = s.payload len := rfl
@[simp] theorem selectLane_unread (lane : BitVec 8) : (s.unread rs es n x).selectLane lane = s.selectLane lane := rfl
@[simp] theorem memRead_unread (a k : Nat) : (s.unread rs es n x).memRead a k = s.memRead a k := rfl

@[simp] theorem memWrite_unread (a : Nat) (bs : List Byte) :
    (s.unread rs es n x).memWrite a bs = (s.memWrite a bs).map (·.unread rs es n x) := by
  unfold State.memWrite
  rw [params_unread]
  split_ifs <;> rfl

@[simp] theorem scanLanes_unread (k l : Nat) : scanLanes (s.unread rs es n x) k l = scanLanes s k l := by
  induction k generalizing l with
  | zero => rfl
  | succ k ih => simp only [scanLanes, widx_unread, ridx_unread, ih]

theorem execRegister_unread (pe : Bool) (level scount ssize : BitVec 8) :
    execRegister pe level scount ssize (s.unread rs es n x) =
      mapNext (·.surround rs es n) (execRegister pe level scount ssize s) := by
  unfold execRegister
  simp only [apply_ite (mapNext _)]
  rfl

theorem pushLane_unread (l : Nat) (len : BitVec 16) :
    pushLane l len (s.unread rs es n x) = mapNext (·.surround rs es n) (pushLane l len s) := by
  unfold pushLane
  simp only [widx_unread, ridx_unread, nextIndex_unread, slotAddr_unread, payload_unread, memWrite_unread]
  cases s.widx[l]? with
  | none => rfl
  | some w =>
    cases s.ridx[l]? with
    | none => rfl
    | some r =>
      dsimp only
      cases s.nextIndex w.toNat with
      | none => rfl
      | some nx =>
        dsimp only
        split_ifs
        · rfl
        · cases s.memWrite (s.slotAddr l w.toNat) (s.payload len) <;> rfl

theorem execPush_unread (lane : BitVec 8) (len : BitVec 16) :
    execPush lane len (s.unread rs es n x) = mapNext (·.surround rs es n) (execPush lane len s) := by
  unfold execPush
  simp only [active_unread, slotSize_unread, selectLane_unread, pushLane_unread]
  split_ifs
  · rfl
  · cases s.selectLane lane <;> rfl
  · rfl

theorem serveSlot_unread (l r : Nat) :
    serveSlot l r (s.unread rs es n x) = mapNext (·.surround rs es n) (serveSlot l r s) := by
  unfold serveSlot
  simp only [nextIndex_unread, slotAddr_unread, slotSize_unread, memRead_unread]
  cases s.nextIndex r with
  | none => rfl
  | some nx => cases s.memRead (s.slotAddr l r) s.slotSize.toNat <;> rfl

theorem popSingle_unread : popSingle (s.unread rs es n x) = mapNext (·.surround rs es n) (popSingle s) := by
  unfold popSingle
  simp only [widx_unread, ridx_unread, nextIndex_unread, params_unread, serveSlot_unread]
  cases s.widx[0]? with
  | none => rfl
  | some w =>
    cases s.ridx[0]? with
    | none => rfl
    | some r =>
      dsimp only
      cases s.nextIndex r.toNat with
      | none => rfl
      | some nx =>
        dsimp only
        split_ifs <;> rfl

theorem popPriority_unread :
    popPriority (s.unread rs es n x) = mapNext (·.surround rs es n) (popPriority s) := by
  unfold popPriority
  simp only [laneCount_unread, params_unread, R_unread, scanLanes_unread, serveSlot_unread]
  cases scanLanes s s.laneCount.toNat 0 with
  | error f => rfl
  | ok o =>
    cases o with
    | some l => rfl
    | none => cases s.params.prioEmptyStatus <;> rfl

theorem execPop_unread : execPop (s.unread rs es n x) = mapNext (·.surround rs es n) (execPop s) := by
  unfold execPop
  simp only [active_unread, prioEn_unread, popPriority_unread, popSingle_unread]
  split_ifs <;> rfl

end Surroundings

/-- Settles O40, command by command. -/
theorem commandsIgnoreTheSurroundings : Obligations.CommandsIgnoreTheSurroundings := by
  intro i s rs es n x
  cases i with
  | register pe level scount ssize => exact execRegister_unread s rs es n x pe level scount ssize
  | unregister => rfl
  | push lane len => exact execPush_unread s rs es n x lane len
  | pop => exact execPop_unread s rs es n x

/-! ### The unseen store -/

namespace SameButUnseenStore
variable {s t : State} (h : SameButUnseenStore s t)
include h

/-- The second state is the first with another store. -/
theorem exists_setStore : ∃ m, t = s.setStore m := ⟨t.store, h.1⟩

/-- An operation that neither reads nor writes the store, and leaves the region, keeps the relation. -/
theorem map {f : State → State} (hf : ∀ u m, f (u.setStore m) = (f u).setStore m)
    (hstore : ∀ u, (f u).store = u.store) (hactive : ∀ u, (f u).active = u.active)
    (hregion : ∀ u, (f u).region = u.region) : SameButUnseenStore (f s) (f t) := by
  obtain ⟨e, hread⟩ := h
  refine ⟨?_, ?_⟩
  · rw [hstore t, ← hf, ← e]
  · rw [hstore s, hstore t, hactive, hregion]
    exact hread

theorem setResponse (r : Response) : SameButUnseenStore (s.setResponse r) (t.setResponse r) :=
  h.map (f := (·.setResponse r)) (fun _ _ => rfl) (fun _ => rfl) (fun _ => rfl) fun _ => rfl

theorem acceptRequest (k : Nat) (q : Request) :
    SameButUnseenStore (acceptRequest k q s) (acceptRequest k q t) :=
  h.map (f := Machine.acceptRequest k q) (fun _ _ => rfl) (fun _ => rfl) (fun _ => rfl) fun _ => rfl

theorem deliver (k : Nat) : SameButUnseenStore (deliver k s) (deliver k t) := by
  have hset : ∀ u, ∃ rs, Machine.deliver k u = u.setRequesters rs := deliver_eq k
  refine h.map (f := Machine.deliver k) (fun u m => ?_) (fun u => ?_) (fun u => ?_) fun u => ?_
  · unfold Machine.deliver
    rw [State.response_setStore]
    cases u.response <;> rfl
  all_goals
    obtain ⟨rs, e⟩ := hset u
    rw [e]
    rfl

end SameButUnseenStore

theorem SameButUnseenStore.refl (s : State) : SameButUnseenStore s s := ⟨rfl, fun _ _ _ => rfl⟩

/-- The bytes of a slot of a configured lane are seen. -/
theorem SameButUnseenStore.slotBytes_eq {s : State} {m : Memory} (h : SameButUnseenStore s (s.setStore m))
    (ha : s.active = true) {l i : Nat} (hl : l < s.laneCount.toNat) (hi : i < s.slotCount.toNat) :
    m.readBytes (s.slotAddr l i) s.slotSize.toNat = s.store.readBytes (s.slotAddr l i) s.slotSize.toNat :=
  Memory.readBytes_congr fun k hk => h.2 ha _ (by have := slot_in_region hl hi; omega)

/-- Serving a configured lane brings no unseen byte into DOUT. -/
theorem SameButUnseenStore.servedState {s : State} {m : Memory} (h : SameButUnseenStore s (s.setStore m))
    (ha : s.active = true) {l i : Nat} (hl : l < s.laneCount.toNat) (hi : i < s.slotCount.toNat) :
    SameButUnseenStore (servedState l i s) (servedState l i (s.setStore m)) := by
  have e : Machine.servedState l i (s.setStore m) = (Machine.servedState l i s).setStore m := by
    unfold Machine.servedState
    rw [State.store_setStore, State.slotSize_setStore, slotAddr_congr (s := s) (t := s.setStore m) rfl rfl,
      h.slotBytes_eq ha hl hi]
    rfl
  rw [e]
  exact ⟨rfl, h.2⟩

/-- A PUSH writes the same bytes at the same offsets of both stores. -/
theorem SameButUnseenStore.pushedState {s : State} {m : Memory} (h : SameButUnseenStore s (s.setStore m))
    (hs : s.store.wf) (hm : m.wf) (l : Nat) (len : BitVec 16) :
    SameButUnseenStore (pushedState l len s) (pushedState l len (s.setStore m)) := by
  refine ⟨rfl, fun ha a hlt => ?_⟩
  show (m.writeBytes (s.slotAddr l (s.W l)) (s.payload len)).read a =
    (s.store.writeBytes (s.slotAddr l (s.W l)) (s.payload len)).read a
  rw [Memory.read_writeBytes hm, Memory.read_writeBytes hs]
  split_ifs
  · rfl
  · exact h.2 ha a hlt

/-- REGISTER fills the whole region it configures with zeros (R100), so that every byte then seen is 0. -/
theorem sameButUnseenStore_registeredState (pe : Bool) (level scount ssize : BitVec 8) (s : State) (m : Memory) :
    SameButUnseenStore (registeredState pe level scount ssize s)
      (registeredState pe level scount ssize (s.setStore m)) := by
  refine ⟨rfl, fun _ a (ha : a < regionSize (requestedLanes pe level) scount ssize) => ?_⟩
  show (m.zeroFill 0 _).read a = (s.store.zeroFill 0 _).read a
  rw [Memory.read_zeroFill, Memory.read_zeroFill, if_pos (by omega), if_pos (by omega)]

/-- Both outcomes are next states, and these differ in unseen store bytes only. -/
def SameNext (o o' : Outcome) : Prop := ∃ s t, o = .next s ∧ o' = .next t ∧ SameButUnseenStore s t

namespace SameNext

theorem next {s t : State} (h : SameButUnseenStore s t) : SameNext (.next s) (.next t) := ⟨s, t, rfl, rfl, h⟩

theorem ite {c : Prop} [Decidable c] {o o' p p' : Outcome} (h1 : c → SameNext o o') (h2 : ¬c → SameNext p p') :
    SameNext (if c then o else p) (if c then o' else p') := by
  split
  · next h => exact h1 h
  · next h => exact h2 h

theorem answer {s t : State} (h : SameButUnseenStore s t) (st : Status) :
    SameNext (answer st s) (answer st t) := next (h.setResponse _)

theorem answerWithDout {s t : State} (h : SameButUnseenStore s t) (st : Status) :
    SameNext (answerWithDout st s) (answerWithDout st t) := by
  obtain ⟨m, rfl⟩ := h.exists_setStore
  exact next (h.setResponse _)

theorem deliverOutcome {o o' : Outcome} (h : SameNext o o') (k : Nat) :
    SameNext (deliverOutcome k o) (deliverOutcome k o') := by
  obtain ⟨s, t, rfl, rfl, h⟩ := h
  exact next (h.deliver k)

end SameNext

/-- The checks of REGISTER read no store. -/
theorem execRegister_sameNext {s t : State} (h : SameButUnseenStore s t) (pe : Bool)
    (level scount ssize : BitVec 8) :
    SameNext (execRegister pe level scount ssize s) (execRegister pe level scount ssize t) := by
  obtain ⟨m, rfl⟩ := h.exists_setStore
  unfold execRegister
  exact .ite (fun _ => .answer h _) fun _ => .ite (fun _ => .answer h _) fun _ =>
    .ite (fun _ => .answer h _) fun _ => .ite (fun _ => .answer h _) fun _ =>
    .ite (fun _ => .answer h _) fun _ => .next (sameButUnseenStore_registeredState pe level scount ssize s m)

/-- PUSH reads no store byte and writes a configured slot. -/
theorem execPush_sameNext {s t : State} (hs : s.Inv) (ht : t.Inv) (h : SameButUnseenStore s t)
    (lane : BitVec 8) (len : BitVec 16) : SameNext (execPush lane len s) (execPush lane len t) := by
  obtain ⟨m, rfl⟩ := h.exists_setStore
  by_cases hok : s.active = true ∧ len.toNat ≤ s.slotSize.toNat ∧ ∃ l, s.selectLane lane = some l
  · obtain ⟨ha, hlen, l, hsel⟩ := hok
    rw [hs.execPush_eq ha hlen hsel, ht.execPush_eq ha hlen hsel]
    exact .ite (fun _ => .answer h _) fun _ => .next (h.pushedState hs.store.1 ht.store.1 l len)
  · rw [execPush_refused hok, execPush_refused (s := s.setStore m) hok]
    exact .answer h _

/-- POP reads a configured slot. -/
theorem execPop_sameNext {s t : State} (hs : s.Inv) (ht : t.Inv) (h : SameButUnseenStore s t) :
    SameNext (execPop s) (execPop t) := by
  obtain ⟨m, rfl⟩ := h.exists_setStore
  cases ha : s.active with
  | false =>
    rw [execPop_inactive ha, execPop_inactive (s := s.setStore m) ha]
    exact .answerWithDout h _
  | true =>
    cases hp : s.prioEn with
    | false =>
      obtain ⟨-, hl, -⟩ := hs.active ha
      rw [hs.execPop_single ha hp, ht.execPop_single ha hp]
      exact .ite (fun _ => .answerWithDout h _) fun _ => .next (h.servedState ha hl (hs.indices_lt ha hl).2)
    | true =>
      rcases s.scanServes_or_all_empty with ⟨l, hscan⟩ | hempty
      · rw [hs.execPop_serves ha hp hscan, ht.execPop_serves ha hp hscan]
        exact .next (h.servedState ha hscan.1 (hs.indices_lt ha hscan.1).2)
      · rw [hs.execPop_all_empty ha hp hempty, ht.execPop_all_empty ha hp hempty]
        exact .answerWithDout h _

theorem runCommand_sameNext {s t : State} (hs : s.Inv) (ht : t.Inv) (h : SameButUnseenStore s t) (w : Word) :
    SameNext (runCommand w s) (runCommand w t) := by
  cases hd : decode w with
  | error e =>
    rw [runCommand_illegal hd, runCommand_illegal hd]
    exact .next (h.setResponse _)
  | ok i =>
    rw [runCommand_ok hd, runCommand_ok hd]
    cases i with
    | register pe level scount ssize => exact execRegister_sameNext h pe level scount ssize
    | unregister =>
      obtain ⟨m, rfl⟩ := h.exists_setStore
      exact .next ⟨rfl, nofun⟩
    | push lane len => exact execPush_sameNext hs ht h lane len
    | pop => exact execPop_sameNext hs ht h

theorem serve_sameNext {s t : State} (hs : s.Inv) (ht : t.Inv) (h : SameButUnseenStore s t) (k : Nat) :
    SameNext (serve k s) (serve k t) := by
  have ho : t.outstanding k = s.outstanding k := by
    obtain ⟨m, rfl⟩ := h.exists_setStore
    rfl
  unfold serve
  rw [ho]
  cases s.outstanding k with
  | none => exact .next h
  | some q =>
    have hrun := runCommand_sameNext (hs.acceptRequest k q) (ht.acceptRequest k q) (h.acceptRequest k q) q.cmd
    exact hrun.deliverOutcome k

/-- The serializer does not read the store. -/
theorem arbitrate_setStore (s : State) (m : Memory) :
    arbitrate (s.setStore m) = ((arbitrate s).1, (arbitrate s).2.setStore m) := by
  unfold arbitrate
  rw [State.schedule_setStore, show (s.setStore m).waiting = s.waiting from rfl]
  cases s.schedule with
  | cons e es => cases e <;> rfl
  | nil =>
    cases s.waiting with
    | nil => rfl
    | cons k ks => cases ks <;> rfl

/-- The serializer takes an entry of the schedule or a draw, and leaves the block alone. -/
theorem arbitrate_state (s : State) : (∃ es, (arbitrate s).2 = s.setSchedule es) ∨ (arbitrate s).2 = s.draw := by
  rcases arbitrate_cases s with
    ⟨h, -, -⟩ | ⟨es, k, h, -, -⟩ | ⟨es, h, -⟩ | ⟨es, k, q, h, -, -⟩ | ⟨k, q, h | h, -, -⟩ <;> rw [h]
  · exact .inl ⟨s.schedule, rfl⟩
  · exact .inl ⟨es, rfl⟩
  · exact .inl ⟨es, rfl⟩
  · exact .inl ⟨es, rfl⟩
  · exact .inl ⟨s.schedule, rfl⟩
  · exact .inr rfl

theorem State.Inv.arbitrate {s : State} (h : s.Inv) : (arbitrate s).2.Inv := by
  rcases arbitrate_state s with ⟨es, e⟩ | e <;> rw [e]
  · exact h.setSchedule es
  · exact h.draw

theorem SameButUnseenStore.arbitrate {s : State} {m : Memory} (h : SameButUnseenStore s (s.setStore m)) :
    SameButUnseenStore (arbitrate s).2 ((arbitrate s).2.setStore m) := by
  rcases arbitrate_state s with ⟨es, e⟩ | e <;> rw [e] <;> exact ⟨rfl, h.2⟩

/-- Settles O41: the serializer chooses alike, and what is chosen then leaves like states: nothing, the
reset, or a command, of which REGISTER clears the bytes it brings into view, PUSH writes the same
bytes in both stores, and POP reads a configured slot. -/
theorem unseenStoreIsUnobservable : Obligations.UnseenStoreIsUnobservable := by
  intro s t hs ht h
  show SameNext (step s) (step t)
  obtain ⟨m, rfl⟩ := h.exists_setStore
  have hs1 := hs.arbitrate
  have ht1 := ht.arbitrate
  have h1 := h.arbitrate
  unfold step
  rw [arbitrate_setStore] at ht1 ⊢
  generalize arbitrate s = choice at hs1 ht1 h1
  obtain ⟨act, s1⟩ := choice
  cases act with
  | idle => exact .next h1
  | reset => exact .next (.refl (powerOnReset s1))
  | serve k => exact serve_sameNext hs1 ht1 h1 k

end Sys2Proof.Machine
end

section
/-! SUPPORT. Progress (20_memory.md R66, R70; 60_exceptions.md R175, R179): under the invariant every
command answers a next state, so no step stops and every run goes through (O45, O46); and what a step
that finds no command, or one granted command, does (O47, O49). -/

namespace Sys2Proof.Machine

/-! ### Every command completes -/

namespace State.Inv
variable {s : State} (h : s.Inv)
include h

/-- PUSH answers in its one step: a failed check, a full lane, or the item enqueued (R121). -/
theorem execPush_completes (lane : BitVec 8) (len : BitVec 16) : ∃ t, execPush lane len s = .next t := by
  by_cases hok : s.active = true ∧ len.toNat ≤ s.slotSize.toNat ∧ ∃ l, s.selectLane lane = some l
  · obtain ⟨ha, hlen, l, hsel⟩ := hok
    rw [h.execPush_eq ha hlen hsel]
    split <;> exact ⟨_, rfl⟩
  · exact ⟨_, execPush_refused hok⟩

/-- POP answers in its one step: Unregistered, nothing to serve, or a slot served (R141, R151). -/
theorem execPop_completes : ∃ t, execPop s = .next t := by
  cases ha : s.active with
  | false => exact ⟨_, execPop_inactive ha⟩
  | true =>
    cases hp : s.prioEn with
    | false =>
      rw [h.execPop_single ha hp]
      split <;> exact ⟨_, rfl⟩
    | true =>
      rcases s.scanServes_or_all_empty with ⟨l, hscan⟩ | hempty
      · exact ⟨_, h.execPop_serves ha hp hscan⟩
      · exact ⟨_, h.execPop_all_empty ha hp hempty⟩

/-- Every command completes (R66). -/
theorem exec_completes (i : Instr) : ∃ t, exec i s = .next t := by
  cases i with
  | register pe level scount ssize =>
    rcases execRegister_cases pe level scount ssize s with
      ⟨-, he⟩ | ⟨-, -, -, -, -, he⟩ | ⟨-, -, -, -, -, -, he⟩
    all_goals exact ⟨_, he⟩
  | unregister => exact ⟨_, execUnregister_eq s⟩
  | push lane len => exact h.execPush_completes lane len
  | pop => exact h.execPop_completes

/-- Every command word is answered, legal or not (R66, R90). -/
theorem runCommand_completes (w : Word) : ∃ t, runCommand w s = .next t := by
  cases hd : decode w with
  | ok i => exact runCommand_ok hd s ▸ h.exec_completes i
  | error e => exact ⟨_, runCommand_illegal hd s⟩

/-- Serving a requester completes: taking its request keeps the invariant, under which its word is
answered. -/
theorem serve_completes (k : Nat) : ∃ t, serve k s = .next t := by
  unfold serve
  cases s.outstanding k with
  | none => exact ⟨s, rfl⟩
  | some q =>
    obtain ⟨t, ht⟩ := (h.acceptRequest k q).runCommand_completes q.cmd
    exact ⟨Machine.deliver k t, congrArg (deliverOutcome k) ht⟩

end State.Inv

/-- Settles O45: whatever the serializer chooses, idling and resetting cannot stop, and serving completes. -/
theorem stepNeverStops : Obligations.StepNeverStops := by
  intro s h
  have h1 := h.arbitrate
  unfold step
  generalize arbitrate s = choice at h1
  obtain ⟨act, s1⟩ := choice
  cases act with
  | idle => exact ⟨s1, rfl⟩
  | reset => exact ⟨powerOnReset s1, rfl⟩
  | serve k => exact h1.serve_completes k

/-- Settles O46, by induction on the number of steps: the first one answers a state that meets the
invariant again. -/
theorem everyRunIsSafe : Obligations.EveryRunIsSafe := by
  intro n
  induction n with
  | zero => exact fun s h => ⟨s, rfl, h⟩
  | succ n ih =>
    intro s h
    obtain ⟨t, ht⟩ := stepNeverStops s h
    obtain ⟨u, hu, hinv⟩ := ih t (stepKeepsTheInvariant s t h ht)
    exact ⟨u, (run_succ ht n).trans hu, hinv⟩

/-! ### A step with nothing to do, and a granted step -/

theorem waiting_eq_nil_iff {s : State} : s.waiting = [] ↔ ∀ k, s.outstanding k = none := by
  simp [List.eq_nil_iff_forall_not_mem, mem_waiting]

/-- Settles O49: with no schedule and nobody waiting the serializer chooses to idle. -/
theorem idleBlockHoldsItsState : Obligations.IdleBlockHoldsItsState := by
  intro s hs hnone
  have ha : arbitrate s = (.idle, s) := by
    unfold arbitrate
    rw [hs, waiting_eq_nil_iff.2 hnone]
  unfold step
  rw [ha]

/-- The decoder reads a 32-bit row as the word it is. -/
theorem decode_of_decodeTableWord {w : Nat} {i : Instr} (h : decodeTableWord 32 w = some i) :
    decode (BitVec.ofNat 32 (w % 2 ^ 32)) = .ok i := by
  unfold decodeTableWord at h
  rw [if_pos (le_refl 32)] at h
  cases hd : decode (BitVec.ofNat 32 (w % 2 ^ 32)) with
  | ok j => rw [hd] at h; exact congrArg _ (Option.some.inj h)
  | error e => rw [hd] at h; cases h

/-- A requester that joins is the last one, with its request outstanding. -/
theorem outstanding_issueNext (q : Request) (s : State) :
    (issueNext q s).outstanding s.requesters.length = some q := by
  simp [issueNext, State.outstanding]

/-- Taking the request of a requester that joined with DIN as the port shows it leaves that requester
with nothing to issue, and the block as it was. -/
theorem acceptRequest_issueNext (w : Word) (s : State) :
    acceptRequest s.requesters.length ⟨w, s.din⟩ ((issueNext ⟨w, s.din⟩ s).setSchedule s.schedule) =
      s.setRequesters (s.requesters ++ [⟨[], []⟩]) := by
  have htake : takeIssued (s.requesters ++ [⟨[⟨w, s.din⟩], []⟩]) s.requesters.length =
      s.requesters ++ [⟨[], []⟩] := by
    simp [takeIssued, List.modify_eq_take_cons_drop]
  exact State.ext_fields rfl rfl rfl rfl rfl rfl rfl rfl rfl rfl rfl rfl htake rfl rfl

/-- Settles O47: a granted step runs the word, and `withFetchWord` is such a grant. -/
theorem stepRunsTheDecodedCommand : Obligations.StepRunsTheDecodedCommand := by
  refine ⟨fun s k es q hs hq => ⟨fun i hd => ?_, fun e hd => ?_⟩, fun s w i hw => ?_⟩
  · rw [step_granted hs hq, runCommand_ok hd]
  · rw [step_granted hs hq, runCommand_illegal hd]
    rfl
  · unfold State.withFetchWord
    rw [step_granted rfl (outstanding_issueNext _ s), runCommand_ok (decode_of_decodeTableWord hw),
      acceptRequest_issueNext]

end Sys2Proof.Machine
end

section
/-! SUPPORT. The second UNREGISTER (40_lifecycle.md R111, R112; O11), and the slots as a partition of the
configured region (20_memory.md R51, R52; O32). -/

namespace Sys2Proof.Machine

/-! ### UNREGISTER while Unregistered -/

/-- Filling a range with zeros a second time changes nothing. -/
theorem Memory.zeroFill_zeroFill (m : Memory) (a n : Nat) : (m.zeroFill a n).zeroFill a n = m.zeroFill a n := by
  simp [Memory.zeroFill, List.filter_filter]

/-- A second UNREGISTER leaves the state it found (R112). -/
theorem unregisteredState_unregisteredState (s : State) :
    unregisteredState (unregisteredState s) = unregisteredState s :=
  congrArg (unregisteredState s).setStore (Memory.zeroFill_zeroFill s.store 0 s.params.storeBytes)

/-- An index file whose registers all read 0 is the cleared one (R27). -/
theorem eq_replicate_zero {f : List Index} {n : Nat} (hf : f.length = n)
    (h : ∀ l < n, (f.getD l 0).toNat = 0) : f = List.replicate n 0 := by
  refine List.ext_getElem (by simp [hf]) fun l h1 h2 => ?_
  have h0 := h l (hf ▸ h1)
  rw [List.getD_eq_getElem _ _ h1] at h0
  rw [List.getElem_replicate]
  exact BitVec.eq_of_toNat_eq h0

/-- UNREGISTER while Unregistered writes the store and the response only (R37, R111). -/
theorem State.Inv.unregisteredState_eq_of_inactive {s : State} (h : s.Inv) (ha : s.active = false) :
    Machine.unregisteredState s = (s.zeroStore s.params.storeBytes).setResponse ⟨.ok, none⟩ := by
  obtain ⟨hp, hl, hc, hz, hidx⟩ := h.unregistered ha
  have hw : s.widx = List.replicate s.params.maxLanes 0 := eq_replicate_zero h.files.1 fun l hl => (hidx l hl).1
  have hr : s.ridx = List.replicate s.params.maxLanes 0 := eq_replicate_zero h.files.2 fun l hl => (hidx l hl).2
  have hconf : s.configure false false 0 0 0 = s :=
    State.ext_fields rfl ha.symm hp.symm hl.symm hc.symm hz.symm hw.symm hr.symm rfl rfl rfl rfl rfl rfl rfl
  unfold Machine.unregisteredState
  rw [hconf]

/-- Settles O11: UNREGISTER leaves `unregisteredState`, which it leaves as it is, and which differs from an
Unregistered state in the store and the response only. -/
theorem unregisterIsIdempotent : Obligations.UnregisterIsIdempotent := by
  intro s t h hu
  cases hu
  refine ⟨⟨_, rfl, rfl⟩, congrArg Host.Outcome.next (unregisteredState_unregisteredState s), fun ha => ?_⟩
  exact h.unregisteredState_eq_of_inactive ha

/-! ### The partition of the region -/

/-- Every offset of the region is one of some slot: divide by the slot's size, then by the slots of a
lane (R52). -/
theorem exists_slot_of_lt_region {s : State} {a : Nat} (h : a < s.region) :
    ∃ l i b, l < s.laneCount.toNat ∧ i < s.slotCount.toNat ∧ b < s.slotSize.toNat ∧ a = s.slotAddr l i + b := by
  have hsize : 0 < s.slotSize.toNat := Nat.pos_of_ne_zero fun e => by simp [State.region, regionSize, e] at h
  have hcount : 0 < s.slotCount.toNat := Nat.pos_of_ne_zero fun e => by simp [State.region, regionSize, e] at h
  have hslot : a / s.slotSize.toNat < s.laneCount.toNat * s.slotCount.toNat :=
    Nat.div_lt_of_lt_mul (Nat.mul_comm .. ▸ h)
  refine ⟨a / s.slotSize.toNat / s.slotCount.toNat, a / s.slotSize.toNat % s.slotCount.toNat,
    a % s.slotSize.toNat, Nat.div_lt_of_lt_mul (Nat.mul_comm .. ▸ hslot), Nat.mod_lt _ hcount,
    Nat.mod_lt _ hsize, ?_⟩
  unfold State.slotAddr
  rw [Nat.div_add_mod', Nat.div_add_mod']

/-- Settles O32: slots lie in the region, do not overlap, and cover it. -/
theorem slotsPartitionTheRegion : Obligations.SlotsPartitionTheRegion := by
  intro s
  refine ⟨fun l i b hl hi hb => ?_, fun l i b l' i' b' hi hb hi' hb' heq => ?_, fun a ha =>
    exists_slot_of_lt_region ha⟩
  · have hin := slot_in_region hl hi
    omega
  · have hsame : l = l' ∧ i = i' := by
      by_contra hne
      have hdis := slots_disjoint hi hi' hne
      omega
    obtain ⟨rfl, rfl⟩ := hsame
    exact ⟨rfl, rfl, Nat.add_left_cancel heq⟩

end Sys2Proof.Machine
end

section
/-! SUPPORT. The requesters (20_memory.md R58 to R61): what an executed command leaves its requester (O48), and
that the commands of finite queues are all answered (R66, R221; O51). -/

namespace Sys2Proof.Machine

/-! ### The response reaches its requester -/

/-- A requester whose outstanding command has been answered with `x` (R61, R80). -/
def Requester.answered (x : Response) (r : Requester) : Requester := ⟨r.issue.tail, x :: r.received⟩

/-- An executed command and its delivery: the command's state, with its requester answered. -/
theorem deliverOutcome_runCommand {s t : State} {k : Nat} {q : Request} {x : Response}
    (h : runCommand q.cmd (acceptRequest k q s) = .next t) (hx : t.response = some x) :
    deliverOutcome k (runCommand q.cmd (acceptRequest k q s)) =
      .next (t.setRequesters (s.requesters.modify k (·.answered x))) := by
  obtain ⟨-, -, hrs, -⟩ := runCommand_surroundings h
  rw [h]
  show Host.Outcome.next (deliver k t) = _
  rw [deliver_some k t hx, hrs, requesters_acceptRequest, takeIssued, List.modify_modify_eq]
  rfl

/-- A POP's response carries DOUT as the command left it, whatever its status (R80). -/
theorem execPop_response_dout {s t : State} (h : execPop s = .next t) :
    ∃ st, t.response = some ⟨st, some t.dout⟩ := by
  rcases execPop_next h with ⟨-, rfl⟩ | ⟨-, -, hs⟩ | ⟨-, -, hs⟩
  · exact ⟨_, rfl⟩
  · obtain ⟨-, -, -, ⟨-, rfl⟩ | ⟨-, hv⟩⟩ := popSingle_next hs
    · exact ⟨_, rfl⟩
    · obtain ⟨-, -, rfl⟩ := serveSlot_next hv
      exact ⟨_, rfl⟩
  · rcases popPriority_next hs with ⟨-, rfl⟩ | ⟨l, -, -, -, -, -, hv⟩
    · exact ⟨_, rfl⟩
    · obtain ⟨-, -, rfl⟩ := serveSlot_next hv
      exact ⟨_, rfl⟩

/-- Settles O48: the granted command completes, and its delivery changes requester `k` alone. -/
theorem responseReachesTheRequester : Obligations.ResponseReachesTheRequester := by
  intro s k es q rest rx h hs hk
  have hq : s.outstanding k = some q := outstanding_eq_some.2 ⟨rest, rx, hk⟩
  obtain ⟨t, ht⟩ := ((h.setSchedule es).acceptRequest k q).runCommand_completes q.cmd
  obtain ⟨-, -, -, hes, -, x, hx⟩ := runCommand_surroundings ht
  refine ⟨_, x, (step_granted hs hq).trans (deliverOutcome_runCommand ht hx), hx, ?_, fun hpop => ?_,
    fun j hj => List.getElem?_modify_ne _ _ hj.symm, hes⟩
  · show (s.requesters.modify k _)[k]? = _
    rw [List.getElem?_modify_eq, hk]
    rfl
  · obtain ⟨st, hst⟩ := execPop_response_dout (t := t) (runCommand_ok hpop _ ▸ ht)
    obtain rfl := Option.some.inj (hx.symm.trans hst)
    rfl

/-! ### Finite queues are served -/

/-- Lowering one entry of a list by 1 lowers the sum by 1. -/
theorem sum_map_modify {α : Type} {g : α → Nat} {f : α → α} {rs : List α} {k : Nat} {r : α}
    (hr : rs[k]? = some r) (hg : g (f r) + 1 = g r) : ((rs.modify k f).map g).sum + 1 = (rs.map g).sum := by
  induction rs generalizing k with
  | nil => cases hr
  | cons a rs ih =>
    cases k with
    | zero =>
      obtain rfl := Option.some.inj hr
      simp only [List.modify_zero_cons, List.map_cons, List.sum_cons]
      omega
    | succ k =>
      have hrest := ih hr
      simp only [List.modify_succ_cons, List.map_cons, List.sum_cons]
      omega

/-- The commands of a requester, answered or not. -/
def Requester.total (r : Requester) : Nat := r.received.length + r.issue.length

/-- Answering an outstanding command keeps the requester's number of commands. -/
theorem total_answered {r : Requester} {q : Request} {rest : List Request} (h : r.issue = q :: rest) (x : Response) :
    (r.answered x).total = r.total := by
  simp only [Requester.total, Requester.answered, h, List.tail_cons, List.length_cons]
  omega

theorem map_total_modify_answered {rs : List Requester} {k : Nat} {q : Request} {rest : List Request}
    {rx : List Response} (h : rs[k]? = some ⟨q :: rest, rx⟩) (x : Response) :
    (rs.modify k (·.answered x)).map Requester.total = rs.map Requester.total := by
  refine List.ext_getElem? fun j => ?_
  rw [List.getElem?_map, List.getElem?_map]
  by_cases hj : j = k
  · subst hj
    rw [List.getElem?_modify_eq, h]
    exact congrArg some (total_answered rfl x)
  · rw [List.getElem?_modify_ne _ _ (Ne.symm hj)]

theorem pendingCount_eq_zero_iff {s : State} : s.pendingCount = 0 ↔ ∀ r ∈ s.requesters, r.issue = [] := by
  simp [State.pendingCount, List.sum_eq_zero_iff]

/-- Where nobody waits, nothing is pending. -/
theorem pendingCount_eq_zero_of_waiting {s : State} (h : s.waiting = []) : s.pendingCount = 0 := by
  refine pendingCount_eq_zero_iff.2 fun r hr => ?_
  obtain ⟨k, hk⟩ := List.mem_iff_getElem?.1 hr
  obtain ⟨issue, rx⟩ := r
  cases issue with
  | nil => rfl
  | cons q rest =>
    have hq := outstanding_eq_some.2 ⟨rest, rx, hk⟩
    rw [waiting_eq_nil_iff.1 h k] at hq
    cases hq

/-- With no schedule left and a command pending, a step runs an outstanding command, whatever the
serializer chooses (R60). -/
theorem step_of_pending {s : State} (hs : s.schedule = []) (hp : s.pendingCount ≠ 0) :
    ∃ k q s1, (s1 = s ∨ s1 = s.draw) ∧ s1.outstanding k = some q ∧
      step s = deliverOutcome k (runCommand q.cmd (acceptRequest k q s1)) := by
  rcases arbitrate_cases s with
    ⟨-, -, hw⟩ | ⟨es, k, -, hs', -⟩ | ⟨es, -, hs'⟩ | ⟨es, k, q, -, hs', -⟩ | ⟨k, q, ha, -, hq⟩
  · exact absurd (pendingCount_eq_zero_of_waiting hw) hp
  · cases hs.symm.trans hs'
  · cases hs.symm.trans hs'
  · cases hs.symm.trans hs'
  · unfold step
    rcases ha with ha | ha <;> rw [ha]
    · exact ⟨k, q, s, .inl rfl, hq, serve_eq hq⟩
    · exact ⟨k, q, s.draw, .inr rfl, hq, serve_eq hq⟩

/-- Such a step answers one command of one requester (R66). -/
theorem State.Inv.step_answers_one {s : State} (h : s.Inv) (hs : s.schedule = []) (hp : s.pendingCount ≠ 0) :
    ∃ t, step s = .next t ∧ t.schedule = [] ∧ t.pendingCount + 1 = s.pendingCount ∧
      t.requesters.map Requester.total = s.requesters.map Requester.total := by
  obtain ⟨k, q, s1, hs1, hq, he⟩ := step_of_pending hs hp
  obtain ⟨h1, hsched, hrs⟩ : s1.Inv ∧ s1.schedule = [] ∧ s1.requesters = s.requesters := by
    rcases hs1 with rfl | rfl
    · exact ⟨h, hs, rfl⟩
    · exact ⟨h.draw, hs, rfl⟩
  obtain ⟨t, ht⟩ := (h1.acceptRequest k q).runCommand_completes q.cmd
  obtain ⟨-, -, -, hes, -, x, hx⟩ := runCommand_surroundings ht
  obtain ⟨rest, rx, hk⟩ := outstanding_eq_some.1 hq
  rw [hrs] at hk
  rw [he, deliverOutcome_runCommand ht hx, hrs]
  exact ⟨_, rfl, hes.trans hsched, sum_map_modify hk rfl, map_total_modify_answered hk x⟩

/-- A run of as many steps as commands are pending answers them all. -/
theorem State.Inv.run_answers_all {n : Nat} {s : State} (h : s.Inv) (hs : s.schedule = [])
    (hn : s.pendingCount = n) :
    ∃ t, Host.Core.run Sys2Proof.core n s = .next t ∧ t.pendingCount = 0 ∧
      t.requesters.map Requester.total = s.requesters.map Requester.total := by
  induction n generalizing s with
  | zero => exact ⟨s, rfl, hn, rfl⟩
  | succ n ih =>
    obtain ⟨t, ht, hsched, hcount, htotal⟩ := h.step_answers_one hs (by omega)
    obtain ⟨u, hu, hzero, htotal'⟩ := ih (stepKeepsTheInvariant s t h ht) hsched (by omega)
    exact ⟨u, (run_succ ht n).trans hu, hzero, htotal'.trans htotal⟩

/-- Settles O51: each step lowers the number of pending commands and keeps every requester's number of
commands, answered or not. -/
theorem everyCommandIsAnswered : Obligations.EveryCommandIsAnswered := by
  intro s h hs
  obtain ⟨t, ht, hzero, htotal⟩ := h.run_answers_all hs rfl
  refine ⟨t, ht, hzero, fun k r hr => ?_⟩
  have hk := congrArg (·[k]?) htotal
  simp only [List.getElem?_map, hr, Option.map_some, Option.map_eq_some_iff] at hk
  obtain ⟨r', hr', htot⟩ := hk
  have hdone := pendingCount_eq_zero_iff.1 hzero r' (List.mem_of_getElem? hr')
  exact ⟨r', hr', hdone, by simpa [Requester.total, hdone] using htot⟩

end Sys2Proof.Machine
end

section
/-! SUPPORT. The two orders of a PUSH and a POP issued together on an empty single lane under EXACT
(20_memory.md R60, R62, R63; O52). -/

namespace Sys2Proof.Machine

/-! ### A lane before and after a PUSH -/

section Unchanged
variable (s : State) (l : Nat)

@[simp] theorem slotSize_pushedState (len : BitVec 16) : (pushedState l len s).slotSize = s.slotSize := rfl
@[simp] theorem W_acceptRequest (k : Nat) (q : Request) : (acceptRequest k q s).W l = s.W l := rfl
@[simp] theorem R_acceptRequest (k : Nat) (q : Request) : (acceptRequest k q s).R l = s.R l := rfl

@[simp] theorem laneEmpty_setResponse (x : Response) : (s.setResponse x).laneEmpty l = s.laneEmpty l := rfl
@[simp] theorem laneEmpty_setSchedule (es : List Event) : (s.setSchedule es).laneEmpty l = s.laneEmpty l := rfl
@[simp] theorem laneEmpty_setRequesters (rs : List Requester) : (s.setRequesters rs).laneEmpty l = s.laneEmpty l := rfl
@[simp] theorem laneEmpty_acceptRequest (k : Nat) (q : Request) :
    (acceptRequest k q s).laneEmpty l = s.laneEmpty l := rfl

end Unchanged

/-- With two slots or more an empty lane is not full (R35). -/
theorem laneFull_of_laneEmpty {s : State} {l : Nat} (he : s.laneEmpty l = true) (h2 : 2 ≤ s.slotCount.toNat)
    (hw : s.W l < s.slotCount.toNat) : s.laneFull l = false := by
  rw [laneEmpty_iff] at he
  rw [← Bool.not_eq_true, laneFull_iff, ← he, mod_eq_ite_of_lt_two_mul (by omega)]
  split_ifs <;> omega

/-- A lane is empty after a PUSH exactly when it was full before it, and then PUSH is refused (R125). -/
theorem laneEmpty_pushedState {s : State} {l : Nat} (len : BitVec 16) (hl : l < s.widx.length)
    (hc : 1 ≤ s.slotCount.toNat) : (pushedState l len s).laneEmpty l = s.laneFull l := by
  unfold State.laneEmpty State.laneFull
  rw [W_pushedState hl hc, if_pos rfl, R_pushedState]

/-- A PUSH leaves its payload at the start of the slot it writes (R121). -/
theorem read_store_pushedState {s : State} {l : Nat} {len : BitVec 16} (hm : s.store.wf) {k : Nat}
    (hk : k < len.toNat) (hd : k < dataWidth) :
    (pushedState l len s).store.read (s.slotAddr l (s.W l) + k) = s.din[k] := by
  have hlen : (s.payload len).length = min len.toNat dataWidth := by simp [State.payload]
  rw [store_pushedState, Memory.read_writeBytes hm, if_pos (by omega), Nat.add_sub_cancel_left, getD_payload hk hd]

theorem response_servedState (l r : Nat) (s : State) :
    (servedState l r s).response = some ⟨.ok, some (servedState l r s).dout⟩ := rfl

/-- Serving the slot a PUSH wrote, before anything else reaches the store, brings the payload into DOUT. -/
theorem dout_servedState_of_pushed {s u : State} {l r : Nat} {len : BitVec 16} (hm : s.store.wf)
    (hlen : len.toNat ≤ s.slotSize.toNat) (hstore : u.store = (pushedState l len s).store)
    (hc : u.slotCount = s.slotCount) (hz : u.slotSize = s.slotSize) (hr : r = s.W l) {k : Nat}
    (hk : k < len.toNat) (hd : k < dataWidth) : (servedState l r u).dout[k] = s.din[k] := by
  rw [dout_servedState, if_pos (by rw [hz]; omega), slotAddr_congr hc hz, hstore, hr,
    read_store_pushedState hm hk hd]

/-! ### Single-lane mode under EXACT -/

/-- An Active block in single-lane mode under EXACT, with the invariant. -/
structure State.ExactSingle (s : State) : Prop where
  inv : s.Inv
  active : s.active = true
  single : s.prioEn = false
  exact : s.params.popEmptyCheck = .exact

namespace State.ExactSingle
variable {s : State} (h : s.ExactSingle)
include h

theorem setSchedule (es : List Event) : (s.setSchedule es).ExactSingle :=
  ⟨h.inv.setSchedule es, h.active, h.single, h.exact⟩

theorem setRequesters (rs : List Requester) : (s.setRequesters rs).ExactSingle :=
  ⟨h.inv.setRequesters rs, h.active, h.single, h.exact⟩

theorem setResponse (x : Response) : (s.setResponse x).ExactSingle :=
  ⟨h.inv.setResponse x, h.active, h.single, h.exact⟩

theorem acceptRequest (k : Nat) (q : Request) : (acceptRequest k q s).ExactSingle :=
  ⟨h.inv.acceptRequest k q, h.active, h.single, h.exact⟩

/-- Lane 0 is configured. -/
theorem lane_zero : 0 < s.laneCount.toNat := by
  obtain ⟨-, hpos, -⟩ := h.inv.active h.active
  exact hpos

/-- A PUSH on the empty lane is not refused, keeps the mode, and leaves the lane not empty (R121, R125). -/
theorem push_of_empty {len : BitVec 16} (lane : BitVec 8) (he : s.laneEmpty 0 = true)
    (h2 : 2 ≤ s.slotCount.toNat) (hlen : len.toNat ≤ s.slotSize.toNat) :
    exec (.push lane len) s = .next (pushedState 0 len s) ∧ (pushedState 0 len s).ExactSingle ∧
      (pushedState 0 len s).laneEmpty 0 = false := by
  have hsel : s.selectLane lane = some 0 := selectLane_eq_some.2 (.inr ⟨h.single, rfl⟩)
  have hfull := laneFull_of_laneEmpty he h2 (h.inv.indices_lt h.active h.lane_zero).1
  have hexec : exec (.push lane len) s = .next (pushedState 0 len s) :=
    (h.inv.execPush_eq h.active hlen hsel).trans (if_neg (by simp [hfull]))
  have hl := Nat.lt_of_lt_of_le h.lane_zero (h.inv.lane_registers h.active).1
  exact ⟨hexec, ⟨exec_preserves_inv h.inv hexec, h.active, h.single, h.exact⟩,
    (laneEmpty_pushedState len hl (Nat.le_of_succ_le h2)).trans hfull⟩

/-- A POP serves the lane when it is not empty (R141). -/
theorem pop_of_not_empty (he : s.laneEmpty 0 = false) :
    exec .pop s = .next (servedState 0 (s.R 0) s) := by
  have hne : s.W 0 ≠ s.R 0 := by simpa [State.laneEmpty] using he
  refine (h.inv.execPop_single h.active h.single).trans (if_neg ?_)
  simpa [h.exact, singleEmptyTest] using hne.symm

/-- A POP finds nothing in the empty lane (R141). -/
theorem pop_of_empty (he : s.laneEmpty 0 = true) :
    exec .pop s = .next (s.setResponse ⟨.noData, some s.dout⟩) := by
  refine (h.inv.execPop_single h.active h.single).trans (if_pos ?_)
  simpa [h.exact, singleEmptyTest] using (laneEmpty_iff.1 he).symm

end State.ExactSingle

/-! ### The two orders -/

/-- A granted step whose word decodes to `i` leaves what `i` leaves, with the requester answered. -/
theorem step_granted_ok {s t : State} {k : Nat} {es : List Event} {q : Request} {i : Instr} {x : Response}
    {rs : List Requester} (hs : s.schedule = .grant k :: es) (hq : s.outstanding k = some q)
    (hd : decode q.cmd = .ok i) (he : exec i (acceptRequest k q (s.setSchedule es)) = .next t)
    (hx : t.response = some x) (hrs : s.requesters.modify k (·.answered x) = rs) :
    step s = .next (t.setRequesters rs) := by
  subst hrs
  exact (step_granted hs hq).trans (deliverOutcome_runCommand ((runCommand_ok hd _).trans he) hx)

/-- Two steps that go through are a run. -/
theorem run_two {s t u : State} (h1 : step s = .next t) (h2 : step t = .next u) :
    Host.Core.run Sys2Proof.core 2 s = .next u :=
  (run_succ h1 1).trans (run_succ h2 0)

section Orders
variable {s : State} {qa qb : Request} {lane : BitVec 8} {len : BitVec 16} (h : s.ExactSingle)
  (he : s.laneEmpty 0 = true) (h2 : 2 ≤ s.slotCount.toNat) (hlen : len.toNat ≤ s.slotSize.toNat)
  (hqa : decode qa.cmd = .ok (.push lane len)) (hqb : decode qb.cmd = .ok .pop)
  (hrs : s.requesters = [⟨[qa], []⟩, ⟨[qb], []⟩])
include h he h2 hlen hqa hqb hrs

/-- PUSH first: the POP returns the payload (R62). -/
theorem push_before_pop : ∃ t ra rb d,
    Host.Core.run Sys2Proof.core 2 (s.setSchedule [.grant 0, .grant 1]) = .next t ∧
      t.requesters = [⟨[], [ra]⟩, ⟨[], [rb]⟩] ∧ ra.status = .ok ∧ rb = ⟨.ok, some d⟩ ∧
      ∀ (k : Nat) (hk : k < dataWidth), k < len.toNat → d[k] = qa.din[k] := by
  have ha := (h.setSchedule [.grant 1]).acceptRequest 0 qa
  obtain ⟨hpush, hp, hne⟩ := ha.push_of_empty lane (len := len) (by simpa using he) (by simpa using h2)
    (by simpa using hlen)
  have hstep1 := step_granted_ok (s := s.setSchedule [.grant 0, .grant 1])
    (rs := [⟨[], [⟨.ok, none⟩]⟩, ⟨[qb], []⟩]) rfl (by simp [State.outstanding, hrs]) hqa hpush rfl
    (by rw [State.requesters_setSchedule, hrs]; rfl)
  have hb := ((hp.setRequesters [⟨[], [⟨.ok, none⟩]⟩, ⟨[qb], []⟩]).setSchedule []).acceptRequest 1 qb
  have hpop := hb.pop_of_not_empty (by simpa using hne)
  have hstep2 := step_granted_ok rfl rfl hqb hpop (response_servedState ..) rfl
  refine ⟨_, _, _, _, run_two hstep1 hstep2, rfl, rfl, rfl, fun k hk hkl => ?_⟩
  exact dout_servedState_of_pushed ha.inv.store.1 (by simpa using hlen) (by simp) (by simp) (by simp)
    (by simpa using (laneEmpty_iff.1 he).symm) hkl hk

/-- POP first: it finds nothing and leaves DOUT, and the PUSH goes through (R63). -/
theorem pop_before_push : ∃ t ra rb,
    Host.Core.run Sys2Proof.core 2 (s.setSchedule [.grant 1, .grant 0]) = .next t ∧
      t.requesters = [⟨[], [ra]⟩, ⟨[], [rb]⟩] ∧ ra.status = .ok ∧ rb = ⟨.noData, some s.dout⟩ := by
  have hb := (h.setSchedule [.grant 0]).acceptRequest 1 qb
  have hstep1 := step_granted_ok (s := s.setSchedule [.grant 1, .grant 0])
    (rs := [⟨[qa], []⟩, ⟨[], [⟨.noData, some s.dout⟩]⟩]) rfl (by simp [State.outstanding, hrs]) hqb
    (hb.pop_of_empty (by simpa using he)) rfl (by rw [State.requesters_setSchedule, hrs]; rfl)
  have ha := (((hb.setResponse ⟨.noData, some s.dout⟩).setRequesters
    [⟨[qa], []⟩, ⟨[], [⟨.noData, some s.dout⟩]⟩]).setSchedule []).acceptRequest 0 qa
  obtain ⟨hpush, -, -⟩ := ha.push_of_empty lane (len := len) (by simpa using he) (by simpa using h2)
    (by simpa using hlen)
  have hstep2 := step_granted_ok rfl rfl hqa hpush rfl rfl
  exact ⟨_, _, _, run_two hstep1 hstep2, rfl, rfl, rfl⟩

end Orders

/-- Settles O52, by one run for each of the two orders. -/
theorem eitherOrderIsAdmitted : Obligations.EitherOrderIsAdmitted := by
  intro s qa qb lane len hi hact hp hx he h2 hlen hqa hqb hrs
  have h : s.ExactSingle := ⟨hi, hact, hp, hx⟩
  exact ⟨push_before_pop h he h2 hlen hqa hqb hrs, pop_before_push h he h2 hlen hqa hqb hrs⟩

end Sys2Proof.Machine
end

section
/-! SUPPORT. The command words (30_encoding.md R82 to R92): what the decoder answers as one `iff`, and with it
the round trips, the opcode map, the fields and the illegal words (O1 to O6). -/

namespace Sys2Proof

/-! ### What decodes, and what is illegal -/

/-- REGISTER's row comes first, so its match alone decides. -/
theorem decode_of_register_row {w : Word} (h : w &&& 0x000000EF = 0x00000001) :
    decode w = .ok (.register (w.getLsbD 4) (bits w 8 8) (bits w 16 8) (bits w 24 8)) :=
  if_pos ((matches_iff rowRegister w).2 h)

/-- PUSH's row meets no row before it. -/
theorem decode_of_push_row {w : Word} (h : w &&& 0x000000FF = 0x00000003) :
    decode w = .ok (.push (bits w 8 8) (bits w 16 16)) := by
  rcases decode_cases w with ⟨hreg, -⟩ | ⟨rfl, -⟩ | ⟨-, hd⟩ | ⟨rfl, -⟩ | ⟨-, -, hpush, -, -⟩
  · rw [register_row_iff] at hreg
    rw [push_row_iff] at h
    omega
  · exact absurd h (by decide)
  · exact hd
  · exact absurd h (by decide)
  · exact absurd h hpush

/-- The decoder by rows: a word is a command exactly when it matches the command's row, and the operands are
its fields. -/
theorem decode_eq_ok_iff {w : Word} {i : Instr} :
    decode w = .ok i ↔
      (w &&& 0x000000EF = 0x00000001 ∧
        i = .register (w.getLsbD 4) (bits w 8 8) (bits w 16 8) (bits w 24 8)) ∨
      (w = 0x00000002 ∧ i = .unregister) ∨
      (w &&& 0x000000FF = 0x00000003 ∧ i = .push (bits w 8 8) (bits w 16 16)) ∨
      (w = 0x00000004 ∧ i = .pop) := by
  constructor
  · intro h
    rcases decode_cases w with ⟨hrow, hd⟩ | ⟨hrow, hd⟩ | ⟨hrow, hd⟩ | ⟨hrow, hd⟩ | ⟨-, -, -, -, hd⟩ <;>
      rw [hd] at h <;> cases h
    · exact .inl ⟨hrow, rfl⟩
    · exact .inr (.inl ⟨hrow, rfl⟩)
    · exact .inr (.inr (.inl ⟨hrow, rfl⟩))
    · exact .inr (.inr (.inr ⟨hrow, rfl⟩))
  · rintro (⟨hrow, rfl⟩ | ⟨rfl, rfl⟩ | ⟨hrow, rfl⟩ | ⟨rfl, rfl⟩)
    · exact decode_of_register_row hrow
    · rfl
    · exact decode_of_push_row hrow
    · rfl

/-! ### The two round trips -/

/-- Every operand of REGISTER is read back from its field (R82, R86). -/
theorem decode_encode_register (pe : Bool) (level scount ssize : BitVec 8) :
    decode (encode (.register pe level scount ssize)) = .ok (.register pe level scount ssize) := by
  have hw := toNat_encode_register pe level scount ssize
  have hpe := pe.toNat_lt
  have hlevel := level.isLt
  have hscount := scount.isLt
  have hssize := ssize.isLt
  generalize encode (.register pe level scount ssize) = w at hw
  have erow : w &&& 0x000000EF = 0x00000001 := (register_row_iff w).2 (by omega)
  have epe : w.getLsbD 4 = pe := Bool.eq_iff_iff.2 (by
    rw [← Bool.toNat_eq_one, ← Bool.toNat_eq_one, toNat_pe]; omega)
  have elevel : bits w 8 8 = level := BitVec.eq_of_toNat_eq (by rw [toNat_bits]; omega)
  have escount : bits w 16 8 = scount := BitVec.eq_of_toNat_eq (by rw [toNat_bits]; omega)
  have essize : bits w 24 8 = ssize := BitVec.eq_of_toNat_eq (by rw [toNat_bits]; omega)
  rw [decode_of_register_row erow, epe, elevel, escount, essize]

/-- Both operands of PUSH are read back from their fields (R84, R86). -/
theorem decode_encode_push (lane : BitVec 8) (len : BitVec 16) :
    decode (encode (.push lane len)) = .ok (.push lane len) := by
  have hw := toNat_encode_push lane len
  have hlane := lane.isLt
  have hlen := len.isLt
  generalize encode (.push lane len) = w at hw
  have erow : w &&& 0x000000FF = 0x00000003 := (push_row_iff w).2 (by omega)
  have elane : bits w 8 8 = lane := BitVec.eq_of_toNat_eq (by rw [toNat_bits]; omega)
  have elen : bits w 16 16 = len := BitVec.eq_of_toNat_eq (by rw [toNat_bits]; omega)
  rw [decode_of_push_row erow, elane, elen]

theorem decode_encode (i : Instr) : decode (encode i) = .ok i := by
  cases i with
  | register pe level scount ssize => exact decode_encode_register pe level scount ssize
  | unregister => rfl
  | push lane len => exact decode_encode_push lane len
  | pop => rfl

/-- A 32-bit row of the opcode table is decoded as the command word it is (R81, R92). -/
theorem decodeTableWord_toNat (w : Word) : decodeTableWord 32 w.toNat = (decode w).toOption := by
  unfold decodeTableWord
  rw [if_pos le_rfl, Nat.mod_eq_of_lt w.isLt, BitVec.ofNat_toNat, BitVec.setWidth_eq]
  cases decode w <;> rfl

/-- REGISTER's fields and its opcode make up a word of its row, whose reserved bits are 0 (R82). -/
theorem encode_register_fields {w : Word} (h : w &&& 0x000000EF = 0x00000001) :
    encode (.register (w.getLsbD 4) (bits w 8 8) (bits w 16 8) (bits w 24 8)) = w := by
  rw [register_row_iff] at h
  apply BitVec.eq_of_toNat_eq
  rw [toNat_encode_register, toNat_pe, toNat_bits, toNat_bits, toNat_bits]
  omega

/-- PUSH's fields and its opcode make up a word of its row, whose reserved bits are 0 (R84). -/
theorem encode_push_fields {w : Word} (h : w &&& 0x000000FF = 0x00000003) :
    encode (.push (bits w 8 8) (bits w 16 16)) = w := by
  rw [push_row_iff] at h
  apply BitVec.eq_of_toNat_eq
  rw [toNat_encode_push, toNat_bits, toNat_bits]
  omega

/-- Settles O1, command by command. -/
theorem decodeOfEncode : Obligations.DecodeOfEncode := fun i =>
  ⟨decode_encode i, by rw [decodeTableWord_toNat, decode_encode]; rfl⟩

/-- Settles O2, row by row. -/
theorem encodeOfDecode : Obligations.EncodeOfDecode := by
  intro w i h
  rcases decode_eq_ok_iff.1 h with ⟨hrow, rfl⟩ | ⟨rfl, rfl⟩ | ⟨hrow, rfl⟩ | ⟨rfl, rfl⟩
  · exact encode_register_fields hrow
  · rfl
  · exact encode_push_fields hrow
  · rfl

/-! ### The opcode map -/

/-- A row fixes the opcode: its mask covers the low four bits (R89). -/
theorem opcode_of_matches {r : OpcodeRow} {w : Word} (hr : r ∈ opcodeRows) (h : r.matches w = true) :
    w &&& 0xF = r.pattern := by
  have low : ∀ r ∈ opcodeRows, r.mask &&& 0xF = 0xF ∧ r.pattern &&& 0xF = r.pattern := by decide
  obtain ⟨hmask, hpattern⟩ := low r hr
  calc w &&& 0xF = w &&& r.mask &&& 0xF := by rw [BitVec.and_assoc, hmask]
    _ = r.pattern := by rw [(matches_iff r w).1 h, hpattern]

/-- At most one row matches any word (R89). -/
theorem row_unique {r r' : OpcodeRow} {w : Word} (hr : r ∈ opcodeRows) (hr' : r' ∈ opcodeRows)
    (h : r.matches w = true) (h' : r'.matches w = true) : r = r' := by
  have patterns_differ : ∀ r ∈ opcodeRows, ∀ r' ∈ opcodeRows, r.pattern = r'.pattern → r = r' := by decide
  exact patterns_differ r hr r' hr' ((opcode_of_matches hr h).symm.trans (opcode_of_matches hr' h'))

/-- No row holds a word with a reserved opcode. -/
theorem opcode_of_decode {w : Word} {i : Instr} (h : decode w = .ok i) :
    1 ≤ w.toNat % 16 ∧ w.toNat % 16 ≤ 4 := by
  rcases decode_eq_ok_iff.1 h with ⟨hrow, -⟩ | ⟨rfl, -⟩ | ⟨hrow, -⟩ | ⟨rfl, -⟩
  · rw [register_row_iff] at hrow; omega
  · decide
  · rw [push_row_iff] at hrow; omega
  · decide

/-- Settles O3, from the decoder by rows. -/
theorem rowsSelectTheCommand : Obligations.RowsSelectTheCommand := by
  intro w
  have full : w &&& 0xFFFFFFFF = w := BitVec.and_allOnes
  refine ⟨by simp [decode_eq_ok_iff], by rw [full]; simp [decode_eq_ok_iff], by simp [decode_eq_ok_iff],
    by rw [full]; simp [decode_eq_ok_iff], fun _ hr _ hr' => row_unique hr hr', fun hop => ?_⟩
  cases hd : decode w with
  | error e => exact ⟨e, rfl⟩
  | ok i =>
    obtain ⟨hlow, hhigh⟩ := opcode_of_decode hd
    omega

/-! ### The fields and the illegal words -/

/-- Settles O4: the operands are the fields, and a field is the quotient and remainder of the word's number. -/
theorem fieldsReadStraight : Obligations.FieldsReadStraight := by
  refine fun w => ⟨fun pe level scount ssize h => ?_, fun lane len h => ?_⟩
  · rcases decode_eq_ok_iff.1 h with ⟨-, hi⟩ | ⟨-, hi⟩ | ⟨-, hi⟩ | ⟨-, hi⟩ <;> cases hi
    exact ⟨toNat_pe w, toNat_bits w 8 8, toNat_bits w 16 8, toNat_bits w 24 8⟩
  · rcases decode_eq_ok_iff.1 h with ⟨-, hi⟩ | ⟨-, hi⟩ | ⟨-, hi⟩ | ⟨-, hi⟩ <;> cases hi
    exact ⟨toNat_bits w 8 8, toNat_bits w 16 16⟩

/-- UNREGISTER and POP have their opcode and 28 reserved bits (R83, R85). -/
theorem toNat_eq_iff_opcode {w : Word} {n : Nat} (hn : n < 16) :
    w.toNat = n ↔ w.toNat % 16 = n ∧ w.toNat / 16 % 2 ^ 28 = 0 := by
  have hw := w.isLt
  omega

/-- The words that are a command: OP names one, and the reserved bits of its format are 0 (R82 to R85). -/
theorem exists_decode_iff {w : Word} :
    (∃ i, decode w = .ok i) ↔
      (bits w 0 4 = 1 ∧ bits w 5 3 = 0) ∨ (bits w 0 4 = 2 ∧ bits w 4 28 = 0) ∨
      (bits w 0 4 = 3 ∧ bits w 4 4 = 0) ∨ (bits w 0 4 = 4 ∧ bits w 4 28 = 0) := by
  have hpush : w.toNat % 256 = 3 ↔ w.toNat % 16 = 3 ∧ w.toNat / 16 % 16 = 0 := by omega
  have hunregister := toNat_eq_iff_opcode (w := w) (n := 2) (by decide)
  have hpop := toNat_eq_iff_opcode (w := w) (n := 4) (by decide)
  simp only [decode_eq_ok_iff, exists_or, exists_and_left, exists_eq, and_true, register_row_iff, push_row_iff,
    hpush]
  simp only [← BitVec.toNat_inj, toNat_bits, BitVec.ofNat_eq_ofNat, BitVec.toNat_ofNat, Nat.pow_zero, Nat.div_one,
    Nat.reducePow, Nat.reduceMod] at hunregister hpop ⊢
  rw [hunregister, hpop]

/-- OP names one of the four commands or is reserved (R89). -/
theorem opcode_cases : ∀ op : BitVec 4, op = 0 ∨ op = 1 ∨ op = 2 ∨ op = 3 ∨ op = 4 ∨
    (5 ≤ op.toNat ∧ op ≠ 1#4 ∧ op ≠ 2#4 ∧ op ≠ 3#4 ∧ op ≠ 4#4) := by decide

/-- The illegal words (R90): OP is reserved, or a reserved bit of its command's format is set. -/
theorem illegal_iff {w : Word} :
    (∀ i, decode w ≠ .ok i) ↔
      (bits w 0 4 = 0 ∨ 5 ≤ (bits w 0 4).toNat ∨ (bits w 0 4 = 1 ∧ bits w 5 3 ≠ 0) ∨
        (bits w 0 4 = 2 ∧ bits w 4 28 ≠ 0) ∨ (bits w 0 4 = 3 ∧ bits w 4 4 ≠ 0) ∨
        (bits w 0 4 = 4 ∧ bits w 4 28 ≠ 0)) := by
  simp only [ne_eq, ← not_exists, exists_decode_iff]
  rcases opcode_cases (bits w 0 4) with h | h | h | h | h | ⟨h, h1, h2, h3, h4⟩ <;> simp [*]

/-- Settles O6: the illegal words by their bits, and the one answer they get. -/
theorem illegalWordIsRefusedFirst : Obligations.IllegalWordIsRefusedFirst := by
  refine fun w => ⟨illegal_iff, fun hillegal s => ?_⟩
  cases hd : decode w with
  | ok i => exact absurd hd (hillegal i)
  | error e => exact ⟨_, rfl, Machine.runCommand_illegal hd s⟩

/-- Settles O5: each word is the encoding of its command. -/
theorem specWordsDecode : Obligations.SpecWordsDecode :=
  ⟨decode_encode (.register false 12 11 10), decode_encode (.register true 12 11 10), decode_encode .unregister,
    decode_encode (.push 200 1), decode_encode .pop⟩

end Sys2Proof
end

section
/-! SUPPORT. The operands a mode ignores (30_encoding.md R87), and the push data port, of which PUSH reads the
payload alone and the other commands nothing (R88; O39). -/

namespace Sys2Proof.Machine

/-! ### Operands a mode ignores -/

/-- REGISTER with PE = 0 asks for one lane, whatever LEVEL is (R87). -/
theorem execRegister_ignores_level (level level' scount ssize : BitVec 8) (s : State) :
    execRegister false level scount ssize s = execRegister false level' scount ssize s := by
  unfold execRegister
  simp only [Bool.false_and, show requestedLanes false level = requestedLanes false level' from rfl]

/-- PUSH in single-lane mode goes to lane 0, whatever LANE is (R87). -/
theorem execPush_ignores_lane {s : State} (hp : s.prioEn = false) (lane lane' : BitVec 8) (len : BitVec 16) :
    execPush lane len s = execPush lane' len s := by
  have hsel : ∀ lane, s.selectLane lane = some 0 := fun _ => selectLane_eq_some.2 (.inr ⟨hp, rfl⟩)
  unfold execPush
  rw [hsel, hsel]

/-! ### The push data port -/

/-- Two DINs that agree below LEN hold the same payload (R88). -/
theorem payload_setDin {s : State} {d : DataVec} {len : BitVec 16}
    (h : ∀ (k : Nat) (hk : k < dataWidth), k < len.toNat → d[k] = s.din[k]) :
    (s.setDin d).payload len = s.payload len := by
  refine List.ext_getElem (by simp [State.payload]) fun k h1 _ => ?_
  have hk : k < len.toNat ∧ k < dataWidth := by simpa [State.payload] using h1
  simpa [State.payload] using h k hk.2 hk.1

section Din
variable (s : State) (d : DataVec)

@[simp] theorem slotAddr_setDin (l i : Nat) : (s.setDin d).slotAddr l i = s.slotAddr l i := rfl
@[simp] theorem nextIndex_setDin (i : Nat) : (s.setDin d).nextIndex i = s.nextIndex i := rfl
@[simp] theorem selectLane_setDin (lane : BitVec 8) : (s.setDin d).selectLane lane = s.selectLane lane := rfl
@[simp] theorem memRead_setDin (a n : Nat) : (s.setDin d).memRead a n = s.memRead a n := rfl

@[simp] theorem memWrite_setDin (a : Nat) (bs : List Byte) :
    (s.setDin d).memWrite a bs = (s.memWrite a bs).map (·.setDin d) := by
  unfold State.memWrite
  rw [State.params_setDin]
  split_ifs <;> rfl

@[simp] theorem scanLanes_setDin (n l : Nat) : scanLanes (s.setDin d) n l = scanLanes s n l := by
  induction n generalizing l with
  | zero => rfl
  | succ n ih => simp only [scanLanes, State.widx_setDin, State.ridx_setDin, ih]

theorem execRegister_setDin (pe : Bool) (level scount ssize : BitVec 8) :
    execRegister pe level scount ssize (s.setDin d) = mapNext (·.setDin d) (execRegister pe level scount ssize s) := by
  unfold execRegister
  simp only [apply_ite (mapNext _)]
  rfl

theorem serveSlot_setDin (l r : Nat) : serveSlot l r (s.setDin d) = mapNext (·.setDin d) (serveSlot l r s) := by
  unfold serveSlot
  rw [nextIndex_setDin, slotAddr_setDin, State.slotSize_setDin, memRead_setDin]
  cases s.nextIndex r with
  | none => rfl
  | some nx => cases s.memRead (s.slotAddr l r) s.slotSize.toNat <;> rfl

theorem popSingle_setDin : popSingle (s.setDin d) = mapNext (·.setDin d) (popSingle s) := by
  unfold popSingle
  simp only [State.widx_setDin, State.ridx_setDin, nextIndex_setDin, State.params_setDin, serveSlot_setDin]
  split
  · split
    · rfl
    · split_ifs <;> rfl
  · rfl

theorem popPriority_setDin : popPriority (s.setDin d) = mapNext (·.setDin d) (popPriority s) := by
  unfold popPriority
  simp only [State.laneCount_setDin, State.params_setDin, R_setDin, scanLanes_setDin, serveSlot_setDin]
  split
  · rfl
  · rfl
  · split <;> rfl

theorem execPop_setDin : execPop (s.setDin d) = mapNext (·.setDin d) (execPop s) := by
  unfold execPop
  rw [State.active_setDin, State.prioEn_setDin, popPriority_setDin, popSingle_setDin]
  split_ifs <;> rfl

end Din

/-- Of DIN, PUSH on a lane reads the payload alone. -/
theorem pushLane_setDin {s : State} {d : DataVec} {len : BitVec 16}
    (h : (s.setDin d).payload len = s.payload len) (l : Nat) :
    pushLane l len (s.setDin d) = mapNext (·.setDin d) (pushLane l len s) := by
  unfold pushLane
  simp only [State.widx_setDin, State.ridx_setDin, nextIndex_setDin, slotAddr_setDin, h, memWrite_setDin]
  split
  · next w r _ _ =>
    split
    · rfl
    · split_ifs
      · rfl
      · cases s.memWrite (s.slotAddr l w.toNat) (s.payload len) <;> rfl
  · rfl

theorem execPush_setDin {s : State} {d : DataVec} {len : BitVec 16}
    (h : (s.setDin d).payload len = s.payload len) (lane : BitVec 8) :
    execPush lane len (s.setDin d) = mapNext (·.setDin d) (execPush lane len s) := by
  unfold execPush
  simp only [State.active_setDin, State.slotSize_setDin, selectLane_setDin, pushLane_setDin h]
  split_ifs
  · rfl
  · cases s.selectLane lane <;> rfl
  · rfl

/-- Settles O39, operand by operand. -/
theorem ignoredOperands : Obligations.IgnoredOperands := by
  refine ⟨execRegister_ignores_level, fun lane lane' len s hp => execPush_ignores_lane hp lane lane' len,
    fun lane len s d h => execPush_setDin (payload_setDin h) lane, fun i s d hi => ?_⟩
  cases i with
  | register pe level scount ssize => exact execRegister_setDin s d pe level scount ssize
  | unregister => rfl
  | push lane len => exact absurd rfl (hi lane len)
  | pop => exact execPop_setDin s d

end Sys2Proof.Machine
end

section
/-! SUPPORT. REGISTER by its checks, the zero fill as byte writes, and the state UNREGISTER leaves
(40_lifecycle.md R100 to R104, R110, R113; O7 to O10, O12). -/

namespace Sys2Proof.Machine

/-! ### The zero fill from offset 0 -/

/-- The fill of REGISTER and UNREGISTER: 0 below `n`, the old byte from there on (R100, R110). -/
theorem Memory.read_zeroFill_zero (m : Memory) (n a : Nat) :
    (m.zeroFill 0 n).read a = if a < n then 0 else m.read a := by
  rw [Memory.read_zeroFill]
  simp

/-- Settles O9: both stores are canonical, and they read alike. -/
theorem zeroFillIsByteWrites : Obligations.ZeroFillIsByteWrites := by
  intro m n hm
  refine Memory.eq_of_read_eq (Memory.wf_zeroFill hm 0 n) (Memory.wf_writeBytes hm 0 _) fun a => ?_
  rw [Memory.read_zeroFill_zero, Memory.read_writeBytes hm, List.length_replicate]
  by_cases ha : a < n
  · simp [ha, List.getD_eq_getElem?_getD]
  · simp [ha]

/-! ### REGISTER -/

/-- The lane count a REGISTER asks for, as a number (R100). -/
theorem toNat_requestedLanes (pe : Bool) (level : BitVec 8) :
    (requestedLanes pe level).toNat = if pe = true then level.toNat else 1 :=
  apply_ite BitVec.toNat _ _ _

/-- A word with REGISTER's opcode and its reserved bits 0 runs REGISTER on its fields (R82, R91). -/
theorem runCommand_register {w : Word} (hop : bits w 0 4 = 1) (hres : bits w 5 3 = 0) (s : State) :
    runCommand w s = execRegister (w.getLsbD 4) (bits w 8 8) (bits w 16 8) (bits w 24 8) s := by
  have hrow : w &&& 0x000000EF = 0x00000001 := by
    rw [← BitVec.toNat_inj, toNat_bits, Nat.pow_zero, Nat.div_one] at hop
    rw [← BitVec.toNat_inj, toNat_bits] at hres
    exact (register_row_iff w).2 ⟨hop, hres⟩
  exact runCommand_ok (decode_of_register_row hrow) s

/-- A REGISTER that gets past its first three checks is no misuse (R100, R104). -/
theorem register_not_misuse {pe : Bool} {level scount ssize : BitVec 8} {s : State} (ha : s.active = false)
    (hl : ¬(pe = true ∧ level = 0)) (hc : scount ≠ 0) (hz : ssize ≠ 0) :
    ¬(s.active = true ∨ (pe = true ∧ level = 0) ∨ scount = 0 ∨ ssize = 0) :=
  not_or.2 ⟨Bool.eq_false_iff.1 ha, not_or.2 ⟨hl, not_or.2 ⟨hc, hz⟩⟩⟩

/-- Settles O7: a reserved bit makes the word illegal, and REGISTER on a legal word has three ends. -/
theorem registerStatusByCause : Obligations.RegisterStatusByCause := by
  intro w s hop pe level scount ssize lanes misuse tooBig
  have hlanes : (requestedLanes pe level).toNat = lanes := toNat_requestedLanes pe level
  by_cases hres : bits w 5 3 = 0
  · have hrun : runCommand w s = execRegister pe level scount ssize s := runCommand_register hop hres s
    rcases execRegister_cases pe level scount ssize s with
      ⟨hmis, he⟩ | ⟨ha, hl, hc, hz, hbig, he⟩ | ⟨ha, hl, hc, hz, hfit, hregion, he⟩ <;>
      rw [hrun, he]
    · exact ⟨fun _ => ⟨_, _, rfl, rfl, rfl⟩, fun h => absurd (.inr hmis) h, fun h => absurd (.inr hmis) h⟩
    · have hno : ¬misuse := not_or.2 ⟨not_not.2 hres, register_not_misuse ha hl hc hz⟩
      rw [regionSize, hlanes] at hbig
      exact ⟨fun h => absurd h hno, fun _ _ => ⟨_, _, rfl, rfl, rfl⟩, fun _ h => absurd hbig h⟩
    · have hno : ¬misuse := not_or.2 ⟨not_not.2 hres, register_not_misuse ha hl hc hz⟩
      have hsmall : ¬tooBig := by
        rw [regionSize, hlanes] at hregion
        exact not_or.2 ⟨by omega, by omega⟩
      exact ⟨fun h => absurd h hno, fun _ h => absurd h hsmall,
        fun _ _ => ⟨_, _, rfl, rfl, rfl, rfl, rfl, hlanes, rfl, rfl⟩⟩
  · have hillegal : ∀ i, decode w ≠ .ok i := illegal_iff.2 (.inr (.inr (.inl ⟨hop, hres⟩)))
    obtain ⟨r, hr, hrun⟩ := (illegalWordIsRefusedFirst w).2 hillegal s
    exact ⟨fun _ => ⟨_, r, hrun, rfl, hr⟩, fun h => absurd (.inl hres) h, fun h => absurd (.inl hres) h⟩

/-- A REGISTER whose checks pass leaves `registeredState` (R100). -/
theorem execRegister_ok {pe : Bool} {level scount ssize : BitVec 8} {s : State} (ha : s.active = false)
    (hl : ¬(pe = true ∧ level = 0)) (hc : scount ≠ 0) (hz : ssize ≠ 0)
    (hfit : (requestedLanes pe level).toNat ≤ s.params.maxLanes)
    (hregion : regionSize (requestedLanes pe level) scount ssize ≤ s.params.storeBytes) :
    execRegister pe level scount ssize s = .next (registeredState pe level scount ssize s) := by
  rcases execRegister_cases pe level scount ssize s with ⟨hmis, -⟩ | ⟨-, -, -, -, hbig, -⟩ | ⟨-, -, -, -, -, -, he⟩
  · exact absurd hmis (register_not_misuse ha hl hc hz)
  · omega
  · exact he

/-- Settles O8: the state is `registeredState`, whose index files are cleared and whose region is filled. -/
theorem registerConfigures : Obligations.RegisterConfigures := by
  intro pe level scount ssize s ha hl hc hz hfit hregion
  rw [← toNat_requestedLanes] at hfit hregion ⊢
  refine ⟨registeredState pe level scount ssize s, execRegister_ok ha hl hc hz hfit hregion, rfl,
    List.length_replicate, List.length_replicate, fun l => ⟨by simp, by simp⟩, fun a => ?_⟩
  exact Memory.read_zeroFill_zero s.store _ a

/-! ### UNREGISTER -/

/-- Settles O10: UNREGISTER leaves `unregisteredState`, with the store filled up to STORE_BYTES. -/
theorem unregisterReleases : Obligations.UnregisterReleases := by
  refine ⟨fun w => by simp [decode_eq_ok_iff], fun s => ?_⟩
  refine ⟨unregisteredState s, rfl, rfl, rfl, List.length_replicate, List.length_replicate,
    fun l => ⟨by simp, by simp⟩, fun a => ?_⟩
  exact Memory.read_zeroFill_zero s.store _ a

theorem execPush_inactive {s : State} (h : s.active = false) (lane : BitVec 8) (len : BitVec 16) :
    execPush lane len s = answer .invalidParameter s :=
  execPush_refused fun hchecks => Bool.eq_false_iff.1 h hchecks.1

/-- Settles O12: the state UNREGISTER leaves is not Active, so PUSH and POP fail their first check. -/
theorem dataCommandsNeedRegistration : Obligations.DataCommandsNeedRegistration := by
  intro s t h
  obtain rfl : unregisteredState s = t := Host.Outcome.next.inj h
  have ha : (unregisteredState s).active = false := rfl
  exact ⟨rfl, ⟨_, _, execPop_inactive ha, rfl, rfl⟩, fun lane len =>
    ⟨_, _, execPush_inactive ha lane len, rfl, rfl⟩⟩

end Sys2Proof.Machine
end

section
/-! SUPPORT. PUSH by its checks, what it writes and leaves, and the item that comes back from the next POP
(41_push.md R121 to R126; O13 to O18). -/

namespace Sys2Proof.Machine

/-! ### The lane a PUSH goes to -/

/-- A PUSH goes to one lane, LANE or lane 0 by the mode, unless LANE is out of range in priority mode
(R121, R126). -/
theorem pushGoesTo_iff {s : State} {lane : BitVec 8} {l : Nat} :
    s.PushGoesTo lane l ↔
      ¬(s.prioEn = true ∧ s.laneCount.toNat ≤ lane.toNat) ∧ l = if s.prioEn = true then lane.toNat else 0 := by
  unfold State.PushGoesTo
  cases s.prioEn <;> simp

/-! ### What a PUSH that is not refused writes and leaves -/

/-- WIDX, the store and the response are all that can differ (R121, R125). -/
theorem pushedState_frame (l : Nat) (len : BitVec 16) (s : State) :
    pushedState l len s =
      { s with
        widx := (pushedState l len s).widx, store := (pushedState l len s).store
        response := some ⟨.ok, none⟩ } := rfl

@[simp] theorem slotAddr_pushedState (l : Nat) (len : BitVec 16) (s : State) (k i : Nat) :
    (pushedState l len s).slotAddr k i = s.slotAddr k i := rfl

@[simp] theorem dout_pushedState (l : Nat) (len : BitVec 16) (s : State) : (pushedState l len s).dout = s.dout := rfl

/-- The store differs in the LEN bytes from the write slot's address on, at most (R53, R121). -/
theorem read_store_pushedState_of_outside {s : State} {l a : Nat} {len : BitVec 16}
    (h : a < s.slotAddr l (s.W l) ∨ s.slotAddr l (s.W l) + len.toNat ≤ a) :
    (pushedState l len s).store.read a = s.store.read a := by
  have hp := length_payload_le s len
  exact Memory.read_writeBytes_of_outside s.store (s.payload len) (by omega)

/-- Settles O14: the state is `pushedState`, on a lane whose registers and slots exist. -/
theorem pushEnqueues : Obligations.PushEnqueues := by
  intro lane len s l hi ha hlen hgo hf
  have hsel := selectLane_eq_some.2 hgo
  have hl := hi.selected_lane ha hsel
  have hW := W_pushedState (len := len) (Nat.lt_of_lt_of_le hl (hi.lane_registers ha).1)
    (Nat.one_le_of_lt (hi.indices_lt ha hl).1)
  exact ⟨pushedState l len s, (hi.execPush_eq ha hlen hsel).trans (if_neg (by simp [hf])),
    pushedState_frame .., List.length_set .., (hW l).trans (if_pos rfl),
    fun k hk => (hW k).trans (if_neg hk), fun k hk hkl => read_store_pushedState hi.store.1 hkl hk,
    fun _ hout => read_store_pushedState_of_outside hout⟩

/-- Settles O15, by the effect of the command: the response alone, or `pushedState` on the selected lane. -/
theorem pushFrame : Obligations.PushFrame := by
  intro lane len s t h
  cases exec_effect h with
  | answered _ r => exact ⟨rfl, fun _ => ⟨rfl, rfl⟩, fun _ _ => ⟨fun _ _ => rfl, fun _ _ => rfl⟩⟩
  | pushed _ _ hgo =>
    have hsel := selectLane_eq_some.2 hgo
    refine ⟨pushedState_frame .., fun hnone => ?_, fun l' hl' => ?_⟩
    · cases hsel.symm.trans hnone
    · obtain rfl := Option.some.inj (hsel.symm.trans hl')
      exact ⟨fun _ hk => List.getElem?_set_ne hk.symm, fun _ hout => read_store_pushedState_of_outside hout⟩

/-! ### The statuses -/

/-- A word with PUSH's opcode and its reserved bits 0 runs PUSH on its fields (R84, R91). -/
theorem runCommand_push {w : Word} (hop : bits w 0 4 = 3) (hres : bits w 4 4 = 0) (s : State) :
    runCommand w s = execPush (bits w 8 8) (bits w 16 16) s := by
  rw [← BitVec.toNat_inj, toNat_bits, Nat.pow_zero, Nat.div_one] at hop
  rw [← BitVec.toNat_inj, toNat_bits] at hres
  have hlow : w.toNat % 16 = 3 := hop
  have hreserved : w.toNat / 16 % 16 = 0 := hres
  have hrow : w &&& 0x000000FF = 0x00000003 := (push_row_iff w).2 (by omega)
  exact runCommand_ok (decode_of_push_row hrow) s

/-- Settles O13: a reserved bit makes the word illegal, and PUSH on a legal word has three ends. -/
theorem pushStatusByCause : Obligations.PushStatusByCause := by
  intro w s hi hop lane len misuse l
  by_cases hres : bits w 4 4 = 0
  · rw [runCommand_push hop hres]
    obtain ⟨t, ht⟩ := hi.execPush_completes lane len
    rcases execPush_next ht with ⟨hmis, rfl⟩ | ⟨l', ha, hlen, hsel, hpush⟩
    · exact ⟨fun _ => ⟨_, _, ht, rfl, rfl⟩, fun h => absurd (.inr hmis) h, fun h => absurd (.inr hmis) h⟩
    · obtain ⟨hrange, rfl⟩ := pushGoesTo_iff.1 (selectLane_eq_some.1 hsel)
      have hno : ¬misuse := not_or.2 ⟨not_not.2 hres,
        not_or.2 ⟨by simp [ha], not_or.2 ⟨Nat.not_lt.2 hlen, hrange⟩⟩⟩
      obtain ⟨hl, -, hc, ⟨hf, rfl⟩ | ⟨hf, -, rfl⟩⟩ := pushLane_next hpush
      · exact ⟨fun h => absurd h hno, fun _ _ => ⟨_, _, ht, rfl, rfl⟩, fun _ h => absurd (hf.symm.trans h) nofun⟩
      · exact ⟨fun h => absurd h hno, fun _ h => absurd (hf.symm.trans h) nofun, fun _ _ =>
          ⟨_, _, ht, rfl, rfl, (W_pushedState hl hc _).trans (if_pos rfl),
            fun k hk hkl => read_store_pushedState hi.store.1 hkl hk⟩⟩
  · have hillegal : ∀ i, decode w ≠ .ok i :=
      illegal_iff.2 (.inr (.inr (.inr (.inr (.inl ⟨hop, hres⟩)))))
    obtain ⟨r, hr, hrun⟩ := (illegalWordIsRefusedFirst w).2 hillegal s
    exact ⟨fun _ => ⟨_, r, hrun, rfl, hr⟩, fun h => absurd (.inl hres) h, fun h => absurd (.inl hres) h⟩

/-! ### The lane after a PUSH -/

/-- Settles O16: PUSH has three ends, and the one that answers Ok leaves `pushedState`, in which the
invariant puts the indices in range again. -/
theorem pushRaisesOccupancyByOne : Obligations.PushRaisesOccupancyByOne := by
  intro lane len s t r hi hpush hr
  have hit : t.Inv := exec_preserves_inv hi hpush
  rcases execPush_next hpush with ⟨-, rfl⟩ | ⟨l, ha, -, hsel, hlane⟩
  · cases hr
    exact ⟨fun _ => rfl, nofun⟩
  · obtain ⟨hwx, -, hc, ⟨-, rfl⟩ | ⟨hf, -, rfl⟩⟩ := pushLane_next hlane
    · cases hr
      exact ⟨fun _ => rfl, nofun⟩
    · cases hr
      have hl := hi.selected_lane ha hsel
      obtain ⟨hw, hrd⟩ := hi.indices_lt ha hl
      obtain ⟨hw', hrd'⟩ := hit.indices_lt ha hl
      have hocc := occupancy_pushedState hw hrd hwx hf len
      refine ⟨fun hne => absurd rfl hne, fun _ => ⟨l, selectLane_eq_some.1 hsel, hocc,
        (laneEmpty_pushedState len hwx hc).trans hf, ?_, pushedState_frame ..,
        fun k hk => (W_pushedState hwx hc k).trans (if_neg hk)⟩⟩
      rw [← occupancy_eq_pred_iff hw' hrd', hocc, slotCount_pushedState]

/-- Settles O17: a PUSH writes in one slot only, and no unread item stands there. -/
theorem pushNeverOverwritesUnread : Obligations.PushNeverOverwritesUnread := by
  intro lane len s t hi ha h k hk j hj
  cases exec_effect h with
  | answered _ r => rfl
  | pushed _ hlen hgo =>
    have hw := (hi.indices_lt ha (hi.selected_lane ha (selectLane_eq_some.2 hgo))).1
    obtain ⟨hwk, hrk⟩ := hi.indices_lt ha hk
    refine slotBytes_pushedState_of_ne hlen hw (Nat.mod_lt _ (Nat.zero_lt_of_lt hw)) ?_
    rintro ⟨rfl, hslot⟩
    exact unread_slot_ne_write_slot hwk hrk hj hslot

/-! ### A PUSH and the next POP -/

/-- Serving the slot a PUSH wrote brings the slot's new bytes into DOUT: the payload, the stale tail, and
then DOUT as it was (R30, R123). -/
theorem dout_servedState_pushedState {s : State} {l r : Nat} {len : BitVec 16} (hm : s.store.wf)
    (hlen : len.toNat ≤ s.slotSize.toNat) (hr : r = s.W l) (k : Nat) (hk : k < dataWidth) :
    (servedState l r (pushedState l len s)).dout[k] =
      if k < len.toNat then s.din[k]
      else if k < s.slotSize.toNat then s.store.read (s.slotAddr l (s.W l) + k)
      else s.dout[k] := by
  by_cases hkl : k < len.toNat
  · rw [if_pos hkl]
    exact dout_servedState_of_pushed hm hlen rfl rfl rfl hr hkl hk
  · rw [if_neg hkl, dout_servedState, hr, slotSize_pushedState, slotAddr_pushedState,
      dout_pushedState, read_store_pushedState_of_outside (.inr (by omega))]

/-- Settles O18: the PUSH leaves `pushedState`, and the POP serves the slot it wrote and brings RIDX up to
WIDX again. -/
theorem pushThenPopReturnsPayload : Obligations.PushThenPopReturnsPayload := by
  intro lane len s hi ha hp hx he h2 hlen
  have h : s.ExactSingle := ⟨hi, ha, hp, hx⟩
  obtain ⟨hpush, ht, hne⟩ := h.push_of_empty lane he h2 hlen
  have hWR : s.W 0 = s.R 0 := laneEmpty_iff.1 he
  have hregs := hi.lane_registers ha
  have hl := h.lane_zero
  have hc : 1 ≤ s.slotCount.toNat := Nat.le_of_succ_le h2
  refine ⟨_, _, hpush, ht.pop_of_not_empty hne, response_servedState .., laneEmpty_iff.2 ?_, fun k hk => ?_⟩
  · rw [W_servedState, W_pushedState (Nat.lt_of_lt_of_le hl hregs.1) hc, if_pos rfl,
      R_servedState (s := pushedState 0 len s) (Nat.lt_of_lt_of_le hl hregs.2) hc, if_pos rfl, R_pushedState,
      slotCount_pushedState, hWR]
  · exact dout_servedState_pushedState hi.store.1 hlen hWR.symm k hk

end Sys2Proof.Machine
end

section
/-! SUPPORT. POP by its checks, what it writes and leaves, and the lane after it (42_pop.md R140 to R156;
O19 to O25). -/

namespace Sys2Proof.Machine

/-! ### The slot a POP serves -/

/-- RIDX, DOUT and the response are all that can differ (R141, R151). -/
theorem servedState_frame (l r : Nat) (s : State) :
    servedState l r s =
      { s with
        ridx := (servedState l r s).ridx, dout := (servedState l r s).dout
        response := some ⟨.ok, some (servedState l r s).dout⟩ } := rfl

theorem getElem?_ridx_servedState_of_ne {k l : Nat} (hk : k ≠ l) (r : Nat) (s : State) :
    (servedState l r s).ridx[k]? = s.ridx[k]? :=
  List.getElem?_set_ne hk.symm

/-- Serving the oldest slot of a configured lane: the whole effect on the state (R30, R141, R151). -/
theorem State.Inv.servedState_effect {s : State} (hi : s.Inv) (ha : s.active = true) {l : Nat}
    (hl : l < s.laneCount.toNat) :
    let t := Machine.servedState l (s.R l) s
    t = { s with ridx := t.ridx, dout := t.dout, response := some ⟨.ok, some t.dout⟩ } ∧
      t.ridx.length = s.ridx.length ∧
      t.R l = (s.R l + 1) % s.slotCount.toNat ∧ (∀ k, k ≠ l → t.R k = s.R k) ∧
      ∀ (k : Nat) (hk : k < dataWidth), t.dout[k] =
        if k < s.slotSize.toNat then s.store.read (s.slotAddr l (s.R l) + k) else s.dout[k] := by
  have hR := R_servedState (r := s.R l) (Nat.lt_of_lt_of_le hl (hi.lane_registers ha).2)
    (Nat.one_le_of_lt (hi.indices_lt ha hl).1)
  exact ⟨servedState_frame .., List.length_set .., (hR l).trans (if_pos rfl),
    fun k hk => (hR k).trans (if_neg hk), dout_servedState l (s.R l) s⟩

/-- The bytes of the slot that a served state has in DOUT. -/
theorem dout_servedState_of_lt (l r : Nat) (s : State) (k : Nat) (hk : k < dataWidth) (hz : k < s.slotSize.toNat) :
    (servedState l r s).dout[k] = s.store.read (s.slotAddr l r + k) :=
  (dout_servedState l r s k hk).trans (if_pos hz)

/-! ### The single-lane empty test -/

theorem singleEmptyTest_exact {r w nx : Nat} : singleEmptyTest .exact r w nx = true ↔ r = w :=
  beq_iff_eq

theorem singleEmptyTest_legacyNext {r w nx : Nat} : singleEmptyTest .legacyNext r w nx = true ↔ nx = w :=
  beq_iff_eq

section SingleLane
variable {s : State} (hi : s.Inv) (ha : s.active = true) (hp : s.prioEn = false)
include hi ha

/-- Lane 0 is configured (R36). -/
theorem State.Inv.lane_zero : 0 < s.laneCount.toNat := by
  obtain ⟨-, hpos, -⟩ := hi.active ha
  exact hpos

include hp

/-- A single-lane POP whose empty test holds answers NoData and writes nothing (R141). -/
theorem State.Inv.execPop_nothing
    (h : singleEmptyTest s.params.popEmptyCheck (s.R 0) (s.W 0) ((s.R 0 + 1) % s.slotCount.toNat) = true) :
    execPop s = .next (s.setResponse ⟨.noData, some s.dout⟩) :=
  (hi.execPop_single ha hp).trans (if_pos h)

/-- A single-lane POP whose empty test fails serves slot RIDX[0] (R141). -/
theorem State.Inv.execPop_item
    (h : singleEmptyTest s.params.popEmptyCheck (s.R 0) (s.W 0) ((s.R 0 + 1) % s.slotCount.toNat) = false) :
    execPop s = .next (Machine.servedState 0 (s.R 0) s) :=
  (hi.execPop_single ha hp).trans (if_neg (by simp [h]))

end SingleLane

/-- Settles O20: the empty test decides between NoData and `servedState` on lane 0. -/
theorem popSingleServes : Obligations.PopSingleServes := fun _ hi ha hp =>
  ⟨hi.execPop_nothing ha hp,
    fun htest => ⟨_, hi.execPop_item ha hp htest, hi.servedState_effect ha (hi.lane_zero ha)⟩⟩

/-- Settles O22: the state is `servedState` on the lane the scanner stands at. -/
theorem popPriorityServesLeastLane : Obligations.PopPriorityServesLeastLane := fun s l hi ha hp hscan =>
  ⟨servedState l (s.R l) s, hi.execPop_serves ha hp hscan, hi.servedState_effect ha hscan.1⟩

/-- Settles O25, by the effect of the command: the response alone, or `servedState` on lane 0 or on the
scanner's lane. -/
theorem popFrame : Obligations.PopFrame := by
  intro s t h
  cases exec_effect h with
  | answered _ r => exact ⟨rfl, fun _ _ _ => rfl, fun _ _ _ => rfl, fun _ _ _ => rfl⟩
  | served _ hlane =>
    refine ⟨servedState_frame .., fun k hk hz => (dout_servedState _ _ s k hk).trans (if_neg (by omega)),
      fun hp k hk => getElem?_ridx_servedState_of_ne ?_ _ s, fun hp k hk => getElem?_ridx_servedState_of_ne ?_ _ s⟩
    · rcases hlane with ⟨-, rfl⟩ | ⟨hprio, -⟩
      · exact hk
      · exact absurd (hp.symm.trans hprio) nofun
    · rcases hlane with ⟨hsingle, -⟩ | ⟨-, hscan⟩
      · exact absurd (hp.symm.trans hsingle) nofun
      · exact fun e => hk (e ▸ hscan)

/-! ### The statuses -/

/-- A word with POP's opcode and its reserved bits 0 runs POP (R85, R91). -/
theorem runCommand_pop {w : Word} (hop : bits w 0 4 = 4) (hres : bits w 4 28 = 0) (s : State) :
    runCommand w s = execPop s := by
  rw [← BitVec.toNat_inj, toNat_bits, Nat.pow_zero, Nat.div_one] at hop
  rw [← BitVec.toNat_inj, toNat_bits] at hres
  have hw : w = 0x00000004 := BitVec.eq_of_toNat_eq ((toNat_eq_iff_opcode (by decide)).2 ⟨hop, hres⟩)
  exact runCommand_ok (decode_eq_ok_iff.2 (.inr (.inr (.inr ⟨hw, rfl⟩)))) s

/-- A reserved bit makes the word illegal, and an Unregistered block refuses POP (R90, R140). -/
theorem runCommand_pop_misuse {w : Word} {s : State} (hop : bits w 0 4 = 4)
    (h : bits w 4 28 ≠ 0 ∨ s.active = false) : Answers (runCommand w s) .invalidParameter := by
  by_cases hres : bits w 4 28 = 0
  · rw [runCommand_pop hop hres, execPop_inactive (h.resolve_left (not_not.2 hres))]
    exact ⟨_, _, rfl, rfl, rfl⟩
  · have hillegal : ∀ i, decode w ≠ .ok i :=
      illegal_iff.2 (.inr (.inr (.inr (.inr (.inr ⟨hop, hres⟩)))))
    obtain ⟨r, hr, hrun⟩ := (illegalWordIsRefusedFirst w).2 hillegal s
    exact ⟨_, r, hrun, rfl, hr⟩

/-- A POP that is no misuse is executed by an Active block (R91, R140). -/
theorem runCommand_pop_use {w : Word} {s : State} (hop : bits w 0 4 = 4)
    (h : ¬(bits w 4 28 ≠ 0 ∨ s.active = false)) : runCommand w s = execPop s ∧ s.active = true := by
  obtain ⟨hres, hact⟩ := not_or.1 h
  exact ⟨runCommand_pop hop (not_not.1 hres) s, by simpa using hact⟩

/-- Settles O19: a POP that is no misuse answers by the empty test of the setting. -/
theorem popSingleStatusByCause : Obligations.PopSingleStatusByCause := by
  intro w s hi hop hp misuse nothing
  have htest : singleEmptyTest s.params.popEmptyCheck (s.R 0) (s.W 0) ((s.R 0 + 1) % s.slotCount.toNat) = true ↔
      nothing := by
    cases hx : s.params.popEmptyCheck with
    | exact => simp only [nothing, hx, singleEmptyTest_exact]
    | legacyNext => simp only [nothing, hx, singleEmptyTest_legacyNext]
  refine ⟨runCommand_pop_misuse hop, fun huse hno => ?_, fun huse hitem => ?_⟩
  · obtain ⟨hrun, ha⟩ := runCommand_pop_use hop huse
    exact ⟨_, _, hrun.trans (hi.execPop_nothing ha hp (htest.2 hno)), rfl, rfl⟩
  · obtain ⟨hrun, ha⟩ := runCommand_pop_use hop huse
    have hfail := Bool.eq_false_iff.2 (mt htest.1 hitem)
    obtain ⟨-, -, hR, -⟩ := hi.servedState_effect ha (hi.lane_zero ha)
    exact ⟨_, _, hrun.trans (hi.execPop_item ha hp hfail), rfl, rfl, hR, dout_servedState_of_lt 0 (s.R 0) s⟩

/-- Settles O21: a POP that is no misuse finds every lane empty, or the scanner stands at a lane. -/
theorem popPriorityStatusByCause : Obligations.PopPriorityStatusByCause := by
  intro w s hi hop hmode misuse allEmpty
  have hempty (huse : ¬misuse) (he : allEmpty) :
      runCommand w s = answerWithDout (emptyPrioStatus s.params) s := by
    obtain ⟨hrun, ha⟩ := runCommand_pop_use hop huse
    exact hrun.trans (hi.execPop_all_empty ha (hmode ha) he)
  refine ⟨runCommand_pop_misuse hop, fun huse he hset => ?_, fun huse he hset => ?_, fun huse hne => ?_⟩
  · exact ⟨_, _, hempty huse he, rfl, by simp [emptyPrioStatus, hset]⟩
  · exact ⟨_, _, hempty huse he, rfl, by simp [emptyPrioStatus, hset], rfl⟩
  · obtain ⟨hrun, ha⟩ := runCommand_pop_use hop huse
    obtain ⟨l, hscan⟩ := s.scanServes_or_all_empty.resolve_right hne
    exact ⟨_, _, l, hrun.trans (hi.execPop_serves ha (hmode ha) hscan), rfl, rfl, hscan,
      dout_servedState_of_lt l (s.R l) s⟩

/-! ### The lane after a POP -/

/-- Settles O23: with every lane empty POP writes the response alone, and otherwise it leaves `servedState` on
the scanner's lane. -/
theorem popPriorityLowersOccupancyByOne : Obligations.PopPriorityLowersOccupancyByOne := by
  intro s t hi ha hp hpop
  refine ⟨fun he => ?_, fun l hscan => ?_⟩
  · obtain rfl := answerWithDout_eq_next.1 ((hi.execPop_all_empty ha hp he).symm.trans hpop)
    rfl
  · obtain rfl := hi.pop_serves_scanned_lane ha hscan hpop (.inl hp)
    obtain ⟨hl, hne, -⟩ := hscan
    obtain ⟨hw, hr⟩ := hi.indices_lt ha hl
    obtain ⟨-, -, -, hother, -⟩ := hi.servedState_effect ha hl
    exact ⟨(occupancy_servedState hw hr (Nat.lt_of_lt_of_le hl (hi.lane_registers ha).2) hne).symm,
      fun k hk => ⟨W_servedState .., hother k hk⟩⟩

/-- Settles O24: a POP that raises a status writes the response alone, and one that answers Ok leaves
`servedState`, in which the invariant puts the indices in range again. -/
theorem popSingleLowersOccupancyByOne : Obligations.PopSingleLowersOccupancyByOne := by
  intro s t r hi ha hp hpop hresp
  have hit : t.Inv := exec_preserves_inv hi hpop
  have hl := hi.lane_zero ha
  obtain ⟨hw, hr⟩ := hi.indices_lt ha hl
  cases htest : singleEmptyTest s.params.popEmptyCheck (s.R 0) (s.W 0) ((s.R 0 + 1) % s.slotCount.toNat) with
  | true =>
    cases (hi.execPop_nothing ha hp htest).symm.trans hpop
    cases hresp
    exact ⟨fun _ => rfl, nofun, nofun⟩
  | false =>
    cases (hi.execPop_item ha hp htest).symm.trans hpop
    cases hresp
    refine ⟨fun hne => absurd rfl hne, fun _ hexact => ?_, fun _ hne => ?_⟩
    · rw [hexact, ← Bool.not_eq_true, singleEmptyTest_exact] at htest
      exact Bool.eq_false_iff.2 fun he => htest (laneEmpty_iff.1 he).symm
    · obtain ⟨hw', hr'⟩ := hit.indices_lt ha hl
      have hocc := occupancy_servedState hw hr (Nat.lt_of_lt_of_le hl (hi.lane_registers ha).2) hne
      have hlt := occupancy_lt_slotCount hw hr
      refine ⟨hocc.symm, ?_, ?_⟩
      · rw [← Bool.not_eq_true, ← occupancy_eq_pred_iff hw' hr', slotCount_servedState]
        omega
      · rw [← occupancy_eq_zero_iff hw' hr']
        omega

end Sys2Proof.Machine
end

section
/-! SUPPORT. POPs one after another in single-lane mode: how a lane drains under EXACT, and what LEGACY_NEXT
makes of an empty one (42_pop.md R143, R146; O26 to O29). -/

namespace Sys2Proof.Machine

/-! ### Serving lane 0 again and again -/

/-- The state that `n` POPs leave which all serve lane 0. -/
def servedTimes : Nat → State → State
  | 0, s => s
  | n + 1, s => servedState 0 ((servedTimes n s).R 0) (servedTimes n s)

/-- Serving changes RIDX, DOUT and the response only, however often (R141). -/
theorem servedTimes_frame (n : Nat) (s : State) :
    servedTimes n s =
      { s with
        ridx := (servedTimes n s).ridx, dout := (servedTimes n s).dout
        response := (servedTimes n s).response } := by
  induction n with
  | zero => rfl
  | succ n ih =>
    let t := servedTimes (n + 1) s
    exact congrArg (fun u => { u with ridx := t.ridx, dout := t.dout, response := t.response }) ih

section Served
variable {s : State} (n : Nat)

@[simp] theorem params_servedTimes : (servedTimes n s).params = s.params :=
  (congrArg State.params (servedTimes_frame n s) :)

@[simp] theorem active_servedTimes : (servedTimes n s).active = s.active :=
  (congrArg State.active (servedTimes_frame n s) :)

@[simp] theorem prioEn_servedTimes : (servedTimes n s).prioEn = s.prioEn :=
  (congrArg State.prioEn (servedTimes_frame n s) :)

@[simp] theorem slotCount_servedTimes : (servedTimes n s).slotCount = s.slotCount :=
  (congrArg State.slotCount (servedTimes_frame n s) :)

@[simp] theorem slotSize_servedTimes : (servedTimes n s).slotSize = s.slotSize :=
  (congrArg State.slotSize (servedTimes_frame n s) :)

@[simp] theorem W_servedTimes (l : Nat) : (servedTimes n s).W l = s.W l :=
  (congrArg (State.W · l) (servedTimes_frame n s) :)

@[simp] theorem slotBytes_servedTimes (l i : Nat) : (servedTimes n s).slotBytes l i = s.slotBytes l i :=
  (congrArg (State.slotBytes · l i) (servedTimes_frame n s) :)

variable (hi : s.Inv) (ha : s.active = true)
include hi ha

theorem State.Inv.servedTimes : (servedTimes n s).Inv := by
  induction n with
  | zero => exact hi
  | succ n ih =>
    have hat := (active_servedTimes n).trans ha
    exact ih.servedState hat (ih.lane_zero hat) _

/-- Each serve advances RIDX[0] by one slot (R141). -/
theorem R_servedTimes : (Machine.servedTimes n s).R 0 = (s.R 0 + n) % s.slotCount.toNat := by
  induction n with
  | zero => exact (Nat.mod_eq_of_lt (hi.indices_lt ha (hi.lane_zero ha)).2).symm
  | succ n ih =>
    have hit := hi.servedTimes n ha
    have hat := (active_servedTimes n).trans ha
    obtain ⟨-, -, hR, -⟩ := hit.servedState_effect hat (hit.lane_zero hat)
    exact hR.trans (by rw [ih, slotCount_servedTimes, Nat.mod_add_mod, Nat.add_assoc])

end Served

/-! ### POPs one after another -/

/-- The single-lane empty test as it stands once `n` slots are served (R141). -/
def State.emptyTestAfter (s : State) (n : Nat) : Bool :=
  singleEmptyTest s.params.popEmptyCheck ((s.R 0 + n) % s.slotCount.toNat) (s.W 0)
    ((s.R 0 + n + 1) % s.slotCount.toNat)

theorem emptyTestAfter_exact {s : State} (hx : s.params.popEmptyCheck = .exact) {n : Nat} :
    s.emptyTestAfter n = true ↔ (s.R 0 + n) % s.slotCount.toNat = s.W 0 := by
  rw [State.emptyTestAfter, hx, singleEmptyTest_exact]

theorem emptyTestAfter_legacyNext {s : State} (hx : s.params.popEmptyCheck = .legacyNext) {n : Nat} :
    s.emptyTestAfter n = true ↔ (s.R 0 + n + 1) % s.slotCount.toNat = s.W 0 := by
  rw [State.emptyTestAfter, hx, singleEmptyTest_legacyNext]

theorem popTimes_succ {n : Nat} {s t : State} (h : popTimes n s = .next t) : popTimes (n + 1) s = exec .pop t := by
  simp only [popTimes, h]

section SingleLane
variable {s : State} (hi : s.Inv) (ha : s.active = true) (hp : s.prioEn = false)
include hi ha

/-- The empty test of the POP that follows `n` served slots. -/
theorem emptyTest_servedTimes (n : Nat) :
    singleEmptyTest (servedTimes n s).params.popEmptyCheck ((servedTimes n s).R 0) ((servedTimes n s).W 0)
      (((servedTimes n s).R 0 + 1) % (servedTimes n s).slotCount.toNat) = s.emptyTestAfter n := by
  rw [R_servedTimes n hi ha, params_servedTimes, W_servedTimes, slotCount_servedTimes, Nat.mod_add_mod]
  rfl

include hp

/-- As long as the empty test fails, each POP serves the next slot. -/
theorem popTimes_served {n : Nat} (h : ∀ j < n, s.emptyTestAfter j = false) :
    popTimes n s = .next (servedTimes n s) := by
  induction n with
  | zero => rfl
  | succ n ih =>
    rw [popTimes_succ (ih fun j hj => h j (Nat.lt_succ_of_lt hj))]
    exact (hi.servedTimes n ha).execPop_item ((active_servedTimes n).trans ha) ((prioEn_servedTimes n).trans hp)
      ((emptyTest_servedTimes hi ha n).trans (h n (Nat.lt_succ_self n)))

/-- The first POP whose empty test holds answers NoData. -/
theorem popTimes_noData {n : Nat} (h : ∀ j < n, s.emptyTestAfter j = false) (hn : s.emptyTestAfter n = true) :
    Answers (popTimes (n + 1) s) .noData := by
  rw [popTimes_succ (popTimes_served hi ha hp h)]
  exact ⟨_, _, (hi.servedTimes n ha).execPop_nothing ((active_servedTimes n).trans ha)
    ((prioEn_servedTimes n).trans hp) ((emptyTest_servedTimes hi ha n).trans hn), rfl, rfl⟩

end SingleLane

/-- Settles O26: the EXACT test fails at every unread slot and holds at the slot after them. -/
theorem exactPopsDrainInOrder : Obligations.ExactPopsDrainInOrder := by
  intro s hi ha hp hx
  obtain ⟨hw, hr⟩ := hi.indices_lt ha (hi.lane_zero ha)
  have hunread : ∀ j < s.occupancy 0, s.emptyTestAfter j = false := fun j hj =>
    Bool.eq_false_iff.2 fun htest => unread_slot_ne_write_slot hw hr hj ((emptyTestAfter_exact hx).1 htest)
  refine ⟨fun n hn => ?_, popTimes_noData hi ha hp hunread ((emptyTestAfter_exact hx).2 (slot_after_unread hw hr))⟩
  refine ⟨servedTimes (n + 1) s, popTimes_served hi ha hp fun j hj => hunread j (by omega), rfl, ?_⟩
  have hdout : (servedTimes (n + 1) s).dout.toList.take (servedTimes n s).slotSize.toNat =
      (servedTimes n s).slotBytes 0 ((servedTimes n s).R 0) := take_dout_servedState ..
  rwa [slotSize_servedTimes, slotBytes_servedTimes, R_servedTimes n hi ha] at hdout

/-! ### The legacy test -/

/-- Settles O27: WIDX[0] stands `occupancy` slots after RIDX[0], and steps of a ring compare modulo its size. -/
theorem legacyTestIsOccupancyOne : Obligations.LegacyTestIsOccupancyOne := by
  intro s hi ha hp
  obtain ⟨hw, hr⟩ := hi.indices_lt ha (hi.lane_zero ha)
  rw [← slot_after_unread hw hr, eq_comm]
  exact ⟨Nat.ModEq.add_left_cancel' (s.R 0), Nat.ModEq.add_left (s.R 0)⟩

/-- Serving an empty lane turns it into a full one: RIDX comes to stand right after WIDX (R143). -/
theorem laneFull_servedState_of_laneEmpty {s : State} {l : Nat} (he : s.laneEmpty l = true) (hl : l < s.ridx.length)
    (hc : 1 ≤ s.slotCount.toNat) : (servedState l (s.R l) s).laneFull l = true := by
  rw [laneFull_iff, R_servedState hl hc, if_pos rfl, W_servedState, slotCount_servedState, laneEmpty_iff.1 he]

/-- From an empty lane the legacy test holds first when RIDX has gone once around the ring (R143). -/
theorem emptyTestAfter_legacyNext_of_laneEmpty {s : State} (hx : s.params.popEmptyCheck = .legacyNext)
    (he : s.laneEmpty 0 = true) (hr : s.R 0 < s.slotCount.toNat) {n : Nat} (hn : n < s.slotCount.toNat) :
    s.emptyTestAfter n = true ↔ n + 1 = s.slotCount.toNat := by
  rw [emptyTestAfter_legacyNext hx, laneEmpty_iff.1 he, mod_eq_ite_of_lt_two_mul (by omega)]
  split_ifs <;> omega

/-- Until RIDX has gone once around, the legacy test fails on a lane that was empty (R143). -/
theorem emptyTestAfter_legacyNext_fails {s : State} (hx : s.params.popEmptyCheck = .legacyNext)
    (he : s.laneEmpty 0 = true) (hr : s.R 0 < s.slotCount.toNat) {n : Nat} (hn : n + 1 < s.slotCount.toNat) :
    s.emptyTestAfter n = false :=
  Bool.eq_false_iff.2 fun h =>
    Nat.ne_of_lt hn ((emptyTestAfter_legacyNext_of_laneEmpty hx he hr (Nat.lt_of_succ_lt hn)).1 h)

/-- Settles O28: the legacy test fails on an empty lane, which the POP then fills, and holds on a lane with one
item. -/
theorem legacyPopOnEmptyFillsTheLane : Obligations.LegacyPopOnEmptyFillsTheLane := by
  intro s hi ha hp hx h2
  have hl := hi.lane_zero ha
  obtain ⟨hw, hr⟩ := hi.indices_lt ha hl
  refine ⟨fun he => ?_, fun hone => ?_⟩
  · have hpop : exec .pop s = .next (servedState 0 (s.R 0) s) := popTimes_served (n := 1) hi ha hp fun j hj =>
      emptyTestAfter_legacyNext_fails hx he hr (by omega)
    have hit : (servedState 0 (s.R 0) s).Inv := exec_preserves_inv hi hpop
    have hfull := laneFull_servedState_of_laneEmpty he (Nat.lt_of_lt_of_le hl (hi.lane_registers ha).2)
      (Nat.le_of_succ_le h2)
    obtain ⟨hw', hr'⟩ := hit.indices_lt ha hl
    refine ⟨_, hpop, rfl, take_dout_servedState .., (occupancy_eq_pred_iff hw' hr').2 hfull, hfull,
      fun lane len hlen => ?_⟩
    have hsel : (servedState 0 (s.R 0) s).selectLane lane = some 0 := selectLane_eq_some.2 (.inr ⟨hp, rfl⟩)
    exact ⟨_, _, (hit.execPush_eq ha hlen hsel).trans (if_pos hfull), rfl, rfl⟩
  · refine hi.execPop_nothing ha hp ?_
    rw [hx, singleEmptyTest_legacyNext, ← hone]
    exact slot_after_unread hw hr

/-- Settles O29: from an empty lane the legacy test fails SLOT_COUNT - 1 times and then holds. -/
theorem legacyPopsFromEmpty : Obligations.LegacyPopsFromEmpty := by
  intro s hi ha hp hx he
  have hr := (hi.indices_lt ha (hi.lane_zero ha)).2
  have hfail : ∀ n, n + 1 < s.slotCount.toNat → s.emptyTestAfter n = false := fun _ =>
    emptyTestAfter_legacyNext_fails hx he hr
  obtain ⟨m, hm⟩ : ∃ m, s.slotCount.toNat = m + 1 := Nat.exists_eq_succ_of_ne_zero (Nat.ne_zero_of_lt hr)
  refine ⟨fun n h1 hn => ?_, ?_⟩
  · obtain ⟨k, rfl⟩ := Nat.exists_eq_add_of_le' h1
    exact ⟨_, _, popTimes_served hi ha hp fun j hj => hfail j (by omega), rfl, rfl⟩
  · rw [hm]
    exact popTimes_noData hi ha hp (fun j hj => hfail j (by omega))
      ((emptyTestAfter_legacyNext_of_laneEmpty hx he hr (by omega)).2 hm.symm)

end Sys2Proof.Machine
end

section
/-! SUPPORT. The statuses: their codes (60_exceptions.md R170), why a command raises one other than Ok, and that
it then writes the response alone, in its one step (R172, R173, R175, R186; O34 to O37, O53). -/

namespace Sys2Proof.Machine

/-! ### The codes -/

/-- The status a 2-bit code stands for (R170). -/
def Status.ofCode (c : BitVec 2) : Status :=
  if c = 0 then .ok else if c = 1 then .invalidParameter else if c = 2 then .outOfMemory else .noData

@[simp] theorem Status.ofCode_code (st : Status) : ofCode st.code = st := by
  cases st <;> rfl

@[simp] theorem Status.code_ofCode : ∀ c : BitVec 2, (ofCode c).code = c := by decide

theorem Status.code_injective : Function.Injective Status.code :=
  Function.LeftInverse.injective Status.ofCode_code

/-- Settles O34: `Status.ofCode` inverts `Status.code` on both sides. -/
theorem statusCodes : Obligations.StatusCodes :=
  ⟨rfl, rfl, rfl, rfl, fun c => ⟨_, Status.code_ofCode c⟩,
    fun _ _ h => Status.code_injective h⟩

/-! ### Why a command raises a status -/

/-- Why command `i` on `s` answers a status other than Ok: every cause of OutOfMemory (R172) and of NoData
(R173). Those of InvalidParameter are not told apart here. -/
inductive RaiseCause (s : State) : Instr → Status → Prop
  | misuse {i : Instr} : RaiseCause s i .invalidParameter
  | tooBig {pe : Bool} {level scount ssize : BitVec 8}
      (exceeds : s.params.maxLanes < (requestedLanes pe level).toNat ∨
        s.params.storeBytes < regionSize (requestedLanes pe level) scount ssize) :
      RaiseCause s (.register pe level scount ssize) .outOfMemory
  | laneFull {lane : BitVec 8} {len : BitVec 16} {l : Nat} (goes : s.PushGoesTo lane l)
      (full : s.laneFull l = true) : RaiseCause s (.push lane len) .outOfMemory
  | singleEmpty (active : s.active = true) (single : s.prioEn = false)
      (test : singleEmptyTest s.params.popEmptyCheck (s.R 0) (s.W 0) ((s.R 0 + 1) % s.slotCount.toNat) = true) :
      RaiseCause s .pop .noData
  | allEmpty (active : s.active = true) (prio : s.prioEn = true)
      (empty : ∀ l < s.laneCount.toNat, s.laneEmpty l = true) (setting : s.params.prioEmptyStatus = .noData) :
      RaiseCause s .pop .noData

theorem emptyPrioStatus_noData {p : Params} (h : p.prioEmptyStatus = .noData) : emptyPrioStatus p = .noData := by
  rw [emptyPrioStatus, h]

theorem emptyPrioStatus_legacyOk {p : Params} (h : p.prioEmptyStatus = .legacyOk) : emptyPrioStatus p = .ok := by
  rw [emptyPrioStatus, h]

/-- A POP that answers another status than Ok has a cause for it and writes the response alone. -/
theorem execPop_raises {s t : State} {r : Response} (h : execPop s = .next t) (hr : t.response = some r)
    (hne : r.status ≠ .ok) : t = s.setResponse r ∧ RaiseCause s .pop r.status := by
  rcases execPop_next h with ⟨-, rfl⟩ | ⟨ha, hp, hs⟩ | ⟨ha, hp, hs⟩
  · cases hr
    exact ⟨rfl, .misuse⟩
  · obtain ⟨-, -, -, ⟨htest, rfl⟩ | ⟨-, hv⟩⟩ := popSingle_next hs
    · cases hr
      exact ⟨rfl, .singleEmpty ha hp htest⟩
    · obtain ⟨-, -, rfl⟩ := serveSlot_next hv
      cases hr
      exact absurd rfl hne
  · rcases popPriority_next hs with ⟨he, rfl⟩ | ⟨l, -, -, -, -, -, hv⟩
    · cases hr
      cases hset : s.params.prioEmptyStatus with
      | noData => exact ⟨rfl, (emptyPrioStatus_noData hset).symm ▸ .allEmpty ha hp he hset⟩
      | legacyOk => exact absurd (emptyPrioStatus_legacyOk hset) hne
    · obtain ⟨-, -, rfl⟩ := serveSlot_next hv
      cases hr
      exact absurd rfl hne

/-- The same for every command: a status other than Ok has a cause, and the response alone is written (R175). -/
theorem exec_raises {i : Instr} {s t : State} {r : Response} (h : exec i s = .next t) (hr : t.response = some r)
    (hne : r.status ≠ .ok) : t = s.setResponse r ∧ RaiseCause s i r.status := by
  cases i with
  | register pe level scount ssize =>
    have h : execRegister pe level scount ssize s = .next t := h
    rcases execRegister_cases pe level scount ssize s with
      ⟨-, he⟩ | ⟨-, -, -, -, hbig, he⟩ | ⟨-, -, -, -, -, -, he⟩ <;>
      (rw [he] at h; cases h; cases hr)
    · exact ⟨rfl, .misuse⟩
    · exact ⟨rfl, .tooBig hbig⟩
    · exact absurd rfl hne
  | unregister =>
    cases h
    cases hr
    exact absurd rfl hne
  | push lane len =>
    rcases execPush_next h with ⟨-, rfl⟩ | ⟨l, -, -, hsel, hp⟩
    · cases hr
      exact ⟨rfl, .misuse⟩
    · obtain ⟨-, -, -, ⟨hfull, rfl⟩ | ⟨-, -, rfl⟩⟩ := pushLane_next hp
      · cases hr
        exact ⟨rfl, .laneFull (selectLane_eq_some.1 hsel) hfull⟩
      · cases hr
        exact absurd rfl hne
  | pop => exact execPop_raises h hr hne

/-- A command answers a status other than Ok for a cause. -/
theorem raiseCause_of_answers {i : Instr} {s : State} {st : Status} (h : Answers (exec i s) st) (hne : st ≠ .ok) :
    RaiseCause s i st := by
  obtain ⟨t, r, ht, hr, rfl⟩ := h
  exact (exec_raises ht hr hne).2

/-- Settles O36: OutOfMemory has the two causes of `RaiseCause`. -/
theorem outOfMemoryCauses : Obligations.OutOfMemoryCauses := by
  intro i s h
  cases raiseCause_of_answers h nofun with
  | tooBig hbig =>
    rw [regionSize, toNat_requestedLanes] at hbig
    exact .inl ⟨_, _, _, _, rfl, hbig⟩
  | laneFull hgo hfull => exact .inr ⟨_, _, _, rfl, hgo, hfull⟩

/-- Settles O35: NoData has the two causes of `RaiseCause`, and under the invariant each of them raises it. -/
theorem noDataOnlyFromPop : Obligations.NoDataOnlyFromPop := by
  refine fun i s hi => ⟨fun h => ?_, ?_⟩
  · cases raiseCause_of_answers h nofun with
    | singleEmpty ha hp htest => exact ⟨rfl, ha, .inl ⟨hp, htest⟩⟩
    | allEmpty ha hp he hset => exact ⟨rfl, ha, .inr ⟨hp, he, hset⟩⟩
  · rintro ⟨rfl, ha, ⟨hp, htest⟩ | ⟨hp, he, hset⟩⟩
    · exact ⟨_, _, hi.execPop_nothing ha hp htest, rfl, rfl⟩
    · exact ⟨_, _, hi.execPop_all_empty ha hp he, rfl, emptyPrioStatus_noData hset⟩

/-- Settles O37: an illegal word and a command that raises a status write the response alone. -/
theorem failureLeavesTheState : Obligations.FailureLeavesTheState := by
  intro w s t r h hr hne
  refine ⟨?_, fun hi => runCommand_preserves_inv hi h⟩
  cases hd : decode w with
  | ok i => exact (exec_raises (runCommand_ok hd s ▸ h) hr hne).1
  | error e =>
    cases (runCommand_illegal hd s).symm.trans h
    cases hr
    rfl

/-! ### Nothing waits -/

/-- A POP of an Active block that finds every lane empty, in priority mode or under EXACT, is answered at once
and writes the response alone (R141, R151, R186). -/
theorem State.Inv.execPop_of_all_empty {s : State} (hi : s.Inv) (ha : s.active = true)
    (hmode : s.prioEn = true ∨ s.params.popEmptyCheck = .exact)
    (he : ∀ l < s.laneCount.toNat, s.laneEmpty l = true) :
    ∃ st, execPop s = answerWithDout st s ∧
      (st = .noData ∨ (st = .ok ∧ s.prioEn = true ∧ s.params.prioEmptyStatus = .legacyOk)) := by
  cases hp : s.prioEn with
  | true =>
    refine ⟨_, hi.execPop_all_empty ha hp he, ?_⟩
    cases hset : s.params.prioEmptyStatus with
    | noData => exact .inl (emptyPrioStatus_noData hset)
    | legacyOk => exact .inr ⟨emptyPrioStatus_legacyOk hset, rfl, rfl⟩
  | false =>
    have hx : s.params.popEmptyCheck = .exact := hmode.resolve_left (by simp [hp])
    have htest : singleEmptyTest s.params.popEmptyCheck (s.R 0) (s.W 0) ((s.R 0 + 1) % s.slotCount.toNat) = true := by
      rw [hx, singleEmptyTest_exact]
      exact (laneEmpty_iff.1 (he 0 (hi.lane_zero ha))).symm
    exact ⟨.noData, hi.execPop_nothing ha hp htest, .inl rfl⟩

/-- With no schedule and nobody waiting, a run of any length holds the state (R186, R190). -/
theorem run_of_idle {s : State} (hs : s.schedule = []) (hnone : ∀ k, s.outstanding k = none) (n : Nat) :
    Host.Core.run Sys2Proof.core n s = .next s := by
  induction n with
  | zero => rfl
  | succ n ih => exact (run_succ (idleBlockHoldsItsState s hs hnone) n).trans ih

/-- Settles O53: every word completes and leaves its surroundings, a full lane and empty lanes are answered at
once, and an idle run holds the state. -/
theorem noCommandWaits : Obligations.NoCommandWaits := by
  refine ⟨fun w s hi => ?_, fun lane len s l hi ha hlen hgo hfull => ?_, fun s hi => hi.execPop_of_all_empty,
    fun n s hs hnone => run_of_idle hs hnone n⟩
  · obtain ⟨t, ht⟩ := hi.runCommand_completes w
    obtain ⟨hparams, -, hreq, hsched, hdraws, r, hr⟩ := runCommand_surroundings ht
    exact ⟨t, r, ht, hr, hreq, hsched, hdraws, hparams⟩
  · exact (hi.execPush_eq ha hlen (selectLane_eq_some.2 hgo)).trans (if_pos hfull)

end Sys2Proof.Machine
end

section
/-! SUPPORT. The reset input (70_reset_and_hazards.md R200 to R202; O50). -/

namespace Sys2Proof.Machine

/-- A scheduled reset pulse is power-on reset with the block's parameters, in the surroundings the pulse leaves:
the requesters as they are and the rest of the schedule (log 4). -/
theorem step_reset {s : State} {es : List Event} (h : s.schedule = .reset :: es) :
    step s = .next (State.resetWith s.params s.requesters es s.draws) := by
  have ha : arbitrate s = (.reset, s.setSchedule es) := by
    unfold arbitrate
    rw [h]
  unfold step
  rw [ha]
  rfl

/-- Settles O50: the pulse leaves the state of power-on reset, whose registers `resetValues` gives. -/
theorem resetInputUnregisters : Obligations.ResetInputUnregisters := by
  intro s es h
  obtain ⟨hactive, hprio, hlanes, hslots, hsize, hwidx, hridx, hindices⟩ :=
    resetValues.1 s.params s.requesters es s.draws
  exact ⟨_, step_reset h, hactive, hprio, hlanes, hslots, hsize, hwidx, hridx, hindices, rfl, rfl, rfl⟩

end Sys2Proof.Machine
end
